-- ==== Sys2Proof/Word.lean ====
section
/-! DEFINITION. The word types of BPBME280-CE (00_scope.md R11, R14). -/

namespace Sys2Proof

/-- A device register, a device register address, a byte of the receive buffer (R11, R62). -/
abbrev Byte := BitVec 8

/-- A host register or a command word (R11, R90). -/
abbrev Word := BitVec 32

end Sys2Proof
end

