-- ==== Sys2Proof/Syntax.lean ====
section
/-! DEFINITION. The commands of BPBME280-CE, one constructor per row of spec/opcode_table.json
(30_encoding.md R92), and the pseudo-commands (R99). -/

namespace Sys2Proof

/-- A command with its operands (30_encoding.md R91, R93): `a` a device register address, `v` a value byte,
`n` a length, `k` an offset into the receive buffer. -/
inductive Instr where
  /-- `NOP` (40_session.md R111) -/
  | nop
  /-- `OPEN` (40_session.md R112) -/
  | openSession
  /-- `CLOSE` (40_session.md R113) -/
  | closeSession
  /-- `WR1 a, v` (41_transport.md R120) -/
  | wr1 (a v : Byte)
  /-- `RD1 a` (41_transport.md R121) -/
  | rd1 (a : Byte)
  /-- `BRD a, n, k` (41_transport.md R122) -/
  | brd (a n k : Byte)
  /-- `CHKID` (42_sequences.md R135) -/
  | chkid
  /-- `LDCAL` (42_sequences.md R136) -/
  | ldcal
  /-- `CFG` (42_sequences.md R137) -/
  | cfg
  /-- `POLL` (42_sequences.md R138) -/
  | poll
  /-- `RDRAW` (42_sequences.md R139) -/
  | rdraw
  /-- `UNPKC` (43_unpack.md R166) -/
  | unpkc
  /-- `UNPKR` (43_unpack.md R170) -/
  | unpkr
  /-- `CMPT` (44_compensation.md R204) -/
  | cmpt
  /-- `CMPP` (44_compensation.md R205) -/
  | cmpp
  /-- `CMPH` (44_compensation.md R206) -/
  | cmph
  deriving DecidableEq, Repr

/-- The pseudo-commands (30_encoding.md R99). -/
inductive Pseudo where
  | init
  | cycle
  | measure
  deriving DecidableEq, Repr

end Sys2Proof
end

