-- ==== Sys2Proof/WellFormed.lean ====
section
/-! DEFINITION. Which commands have an encoding: the operand bounds of 30_encoding.md R94. -/

namespace Sys2Proof

/-- R94: `1 <= n <= 33`, `0 <= k <= 32` and `k + n <= 33`. -/
def brdBounds (n k : Byte) : Bool :=
  decide (1 ≤ n.toNat) && decide (n.toNat ≤ 33) && decide (k.toNat ≤ 32) && decide (k.toNat + n.toNat ≤ 33)

/-- Every operand is a byte and every byte is legal (R93), but for `BRD` (R94). -/
def Instr.wf (i : Instr) : Bool :=
  match i with
  | .brd _ n k => brdBounds n k
  | .nop | .openSession | .closeSession | .wr1 _ _ | .rd1 _ => true
  | .chkid | .ldcal | .cfg | .poll | .rdraw => true
  | .unpkc | .unpkr | .cmpt | .cmpp | .cmph => true

end Sys2Proof
end

