-- ==== Sys2Proof/Decode.lean ====
section
/-! DEFINITION. The command word (30_encoding.md): its fields, the opcode map, the decoder (total, an
illegal word is rejected by the name of its defect), the encoder, the pseudo-commands' expansions and the
assembler's spelling of a command. -/

namespace Sys2Proof

/-! ## Fields (R90) -/

/-- `OP`, bits 31:24. -/
def fieldOp (w : Word) : Byte := w.extractLsb' 24 8
/-- `A`, bits 23:16. -/
def fieldA (w : Word) : Byte := w.extractLsb' 16 8
/-- `N`, bits 15:8. -/
def fieldN (w : Word) : Byte := w.extractLsb' 8 8
/-- `K`, bits 7:0. -/
def fieldK (w : Word) : Byte := w.extractLsb' 0 8

/-- The word `{OP, A, N, K}` (R90). -/
def packWord (op a n k : Byte) : Word := op ++ a ++ n ++ k

/-! ## The decoder -/

/-- Why a word is illegal, in the order the checks are made (R95, R97). -/
inductive DecodeError where
  /-- R95 (a): `OP` is not one of the sixteen. -/
  | unknownOp
  /-- R95 (b): a field the format leaves unused is not zero. -/
  | unusedFieldNonzero
  /-- R95 (c): a `BRD` that breaks R94. -/
  | brdOutOfBounds
  deriving DecidableEq, Repr

/-- Format Z (R91): `A`, `N`, `K` must be 0. -/
def formatZ (a n k : Byte) (i : Instr) : Except DecodeError Instr :=
  if a = 0 ∧ n = 0 ∧ k = 0 then .ok i else .error .unusedFieldNonzero

/-- Format W (R91): `N` must be 0. -/
def formatW (n : Byte) (i : Instr) : Except DecodeError Instr :=
  if n = 0 then .ok i else .error .unusedFieldNonzero

/-- Format R (R91): `N`, `K` must be 0. -/
def formatR (n k : Byte) (i : Instr) : Except DecodeError Instr :=
  if n = 0 ∧ k = 0 then .ok i else .error .unusedFieldNonzero

/-- Format B (R91): no unused field; the bounds of R94. -/
def formatB (n k : Byte) (i : Instr) : Except DecodeError Instr :=
  if brdBounds n k then .ok i else .error .brdOutOfBounds

/-- The opcode map (R92) over the four fields of a word. -/
def decodeFields (op a n k : Byte) : Except DecodeError Instr :=
  match op.toNat with
  | 0x00 => formatZ a n k .nop
  | 0x01 => formatZ a n k .openSession
  | 0x02 => formatZ a n k .closeSession
  | 0x10 => formatW n (.wr1 a k)
  | 0x11 => formatR n k (.rd1 a)
  | 0x12 => formatB n k (.brd a n k)
  | 0x20 => formatZ a n k .chkid
  | 0x21 => formatZ a n k .ldcal
  | 0x22 => formatZ a n k .cfg
  | 0x23 => formatZ a n k .poll
  | 0x24 => formatZ a n k .rdraw
  | 0x30 => formatZ a n k .unpkc
  | 0x31 => formatZ a n k .unpkr
  | 0x40 => formatZ a n k .cmpt
  | 0x41 => formatZ a n k .cmpp
  | 0x42 => formatZ a n k .cmph
  | _ => .error .unknownOp

/-- The command a word selects, or why it is illegal (R92 to R97); total. -/
def decode (w : Word) : Except DecodeError Instr :=
  decodeFields (fieldOp w) (fieldA w) (fieldN w) (fieldK w)

/-- The host's reading of a row of the opcode table: one word of `nbits` bits, bits above zero. A command is
one 32-bit word (R90), so what does not fit in 32 bits is no command (log 17). -/
def decodeTableWord (nbits w : Nat) : Option Instr :=
  if w % 2 ^ nbits < 2 ^ 32 then
    match decode (BitVec.ofNat 32 (w % 2 ^ nbits)) with
    | .ok i => some i
    | .error _ => none
  else none

/-! ## The encoder -/

/-- The opcode of a command (R92). -/
def Instr.op (i : Instr) : Byte :=
  match i with
  | .nop => 0x00#8
  | .openSession => 0x01#8
  | .closeSession => 0x02#8
  | .wr1 _ _ => 0x10#8
  | .rd1 _ => 0x11#8
  | .brd _ _ _ => 0x12#8
  | .chkid => 0x20#8
  | .ldcal => 0x21#8
  | .cfg => 0x22#8
  | .poll => 0x23#8
  | .rdraw => 0x24#8
  | .unpkc => 0x30#8
  | .unpkr => 0x31#8
  | .cmpt => 0x40#8
  | .cmpp => 0x41#8
  | .cmph => 0x42#8

/-- The word of a command: operands in their fields, unused fields zero (R91, R93). -/
def encode (i : Instr) : Word :=
  match i with
  | .wr1 a v => packWord i.op a 0 v
  | .rd1 a => packWord i.op a 0 0
  | .brd a n k => packWord i.op a n k
  | .nop | .openSession | .closeSession => packWord i.op 0 0 0
  | .chkid | .ldcal | .cfg | .poll | .rdraw => packWord i.op 0 0 0
  | .unpkc | .unpkr | .cmpt | .cmpp | .cmph => packWord i.op 0 0 0

/-! ## The opcode table by match and mask (R92) -/

/-- A row of the opcode map: a word `cw` selects it exactly when `cw & mask = bits`. -/
structure OpcodeRow where
  bits : Word
  mask : Word
  deriving DecidableEq, Repr

/-- `cw & mask == match` (R92). -/
def OpcodeRow.selects (r : OpcodeRow) (w : Word) : Bool := decide (w &&& r.mask = r.bits)

/-- The sixteen rows of R92, in its order. -/
def opcodeTable : List OpcodeRow :=
  [⟨0x00000000#32, 0xFFFFFFFF#32⟩, ⟨0x01000000#32, 0xFFFFFFFF#32⟩, ⟨0x02000000#32, 0xFFFFFFFF#32⟩,
   ⟨0x10000000#32, 0xFF00FF00#32⟩, ⟨0x11000000#32, 0xFF00FFFF#32⟩, ⟨0x12000000#32, 0xFF000000#32⟩] ++
  [⟨0x20000000#32, 0xFFFFFFFF#32⟩, ⟨0x21000000#32, 0xFFFFFFFF#32⟩, ⟨0x22000000#32, 0xFFFFFFFF#32⟩,
   ⟨0x23000000#32, 0xFFFFFFFF#32⟩, ⟨0x24000000#32, 0xFFFFFFFF#32⟩] ++
  [⟨0x30000000#32, 0xFFFFFFFF#32⟩, ⟨0x31000000#32, 0xFFFFFFFF#32⟩, ⟨0x40000000#32, 0xFFFFFFFF#32⟩,
   ⟨0x41000000#32, 0xFFFFFFFF#32⟩, ⟨0x42000000#32, 0xFFFFFFFF#32⟩]

/-! ## Pseudo-commands (R99) and the assembler (R98) -/

/-- `INIT` and `CYCLE` as R99 lists them; `MEASURE` is `INIT` then `CYCLE`, without a `CLOSE`
(90_conflicts.md C9). -/
def Pseudo.expand (p : Pseudo) : List Instr :=
  match p with
  | .init => [.openSession, .chkid, .ldcal, .cfg, .poll]
  | .cycle => [.rdraw, .cmpt, .cmpp, .cmph]
  | .measure => [.openSession, .chkid, .ldcal, .cfg, .poll] ++ [.rdraw, .cmpt, .cmpp, .cmph]

/-- `BRD a, n` with `k` omitted means `k = 0` (R98). -/
def brdNoOffset (a n : Byte) : Instr := .brd a n 0

/-- A byte as a decimal number of the assembler (R13, R98). -/
def asmByte (b : Byte) : String := Nat.repr b.toNat

/-- The assembler's spelling of a command (R98), operands in decimal (log 23). -/
def Instr.asm (i : Instr) : String :=
  match i with
  | .nop => "NOP"
  | .openSession => "OPEN"
  | .closeSession => "CLOSE"
  | .wr1 a v => "WR1 " ++ asmByte a ++ ", " ++ asmByte v
  | .rd1 a => "RD1 " ++ asmByte a
  | .brd a n k => "BRD " ++ asmByte a ++ ", " ++ asmByte n ++ ", " ++ asmByte k
  | .chkid => "CHKID"
  | .ldcal => "LDCAL"
  | .cfg => "CFG"
  | .poll => "POLL"
  | .rdraw => "RDRAW"
  | .unpkc => "UNPKC"
  | .unpkr => "UNPKR"
  | .cmpt => "CMPT"
  | .cmpp => "CMPP"
  | .cmph => "CMPH"

end Sys2Proof
end

