-- ==== Sys2Proof/Config.lean ====
section
/-! DEFINITION. The parameters of the block (00_scope.md R7 to R9, R12) and the free values: what the
spec leaves open, as constants without a body. -/

namespace Sys2Proof

/-- A duration token: opaque, handed to the transport's `Sleep` (00_scope.md R9). -/
abbrev Duration := Nat

/-- Every parameter of the block (00_scope.md R7, R8, R9, R12), under the spec's names. -/
structure Params where
  /-- `ADDR_ID` -/
  addrId : Byte
  /-- `ADDR_CTRL_HUM` -/
  addrCtrlHum : Byte
  /-- `ADDR_STATUS` -/
  addrStatus : Byte
  /-- `ADDR_CTRL_MEAS` -/
  addrCtrlMeas : Byte
  /-- `ADDR_CONFIG` -/
  addrConfig : Byte
  /-- `ADDR_DATA`: first of 8 -/
  addrData : Byte
  /-- `ADDR_CALA`: first of 26 -/
  addrCalA : Byte
  /-- `ADDR_CALB`: first of 7 -/
  addrCalB : Byte
  /-- `ID_EXPECTED` -/
  idExpected : Byte
  /-- `VAL_CTRL_HUM` -/
  valCtrlHum : Byte
  /-- `VAL_CTRL_MEAS` -/
  valCtrlMeas : Byte
  /-- `VAL_CONFIG` -/
  valConfig : Byte
  /-- `MEASURING_BIT`: a bit number of the status byte -/
  measuringBit : Fin 8
  /-- `T_WARMUP` -/
  tWarmup : Duration
  /-- `T_POLL` -/
  tPoll : Duration
  /-- `POLL_MAX`, 1 to 65535 -/
  pollMax : Nat
  /-- `H45_SIGNED` -/
  h45Signed : Bool
  deriving DecidableEq, Repr

/-- What the spec requires of the parameters: `ADDR_CALB` not in `[ADDR_CALA, ADDR_CALA+25]` (R7) and
`POLL_MAX` from 1 to 65535 (R9). -/
def Params.wf (p : Params) : Bool :=
  !(decide (p.addrCalA.toNat ≤ p.addrCalB.toNat) && decide (p.addrCalB.toNat ≤ p.addrCalA.toNat + 25))
    && decide (1 ≤ p.pollMax) && decide (p.pollMax ≤ 65535)

namespace Config

/-- `LEN_CALA`, `LEN_CALB`, `LEN_DATA`, `RXBUF_SIZE` (00_scope.md R10, R11): constants, not parameters. -/
abbrev lenCalA : Nat := 26
/-- Length of calibration block B (R10). -/
abbrev lenCalB : Nat := 7
/-- Length of the data burst (R10). -/
abbrev lenData : Nat := 8
/-- Bytes of the receive buffer (R11). -/
abbrev rxbufSize : Nat := 33

/-- Measurement control: temperature oversampling in bits 7:5, pressure oversampling in bits 4:2, mode in
bits 1:0 (20_memory.md R73). -/
def ctrlMeasByte (osT osP : BitVec 3) (mode : BitVec 2) : Byte := osT ++ osP ++ mode

/-- Humidity control: oversampling in bits 2:0 (20_memory.md R73). -/
def ctrlHumByte (osH : BitVec 3) : Byte := 0#5 ++ osH

/-- Standby/filter control: standby interval in bits 7:5, filter setting in bits 4:2 (20_memory.md R73). -/
def configByte (standby filter : BitVec 3) : Byte := standby ++ filter ++ 0#2

/-- `VAL_CONFIG`: OPEN in R8, so uninterpreted (log 7). -/
opaque valConfig : Byte
/-- `T_WARMUP`: OPEN in R9 (log 7). -/
opaque tWarmup : Duration
/-- `T_POLL`: OPEN in R9 (log 7). -/
opaque tPoll : Duration
/-- `POLL_MAX` less 1: OPEN in R9, so `POLL_MAX` is some number from 1 to 65535 (log 7, log 8). -/
opaque pollMaxLessOne : Fin 65535

/-- The parameters the machine is built with: the default where R7, R8 and R12 recommend one, and an
uninterpreted constant where the spec says OPEN (log 7). Oversampling times one is coded `0b001`, normal
mode `0b11` (R73). -/
def params : Params where
  addrId := 0xD0#8
  addrCtrlHum := 0xF2#8
  addrStatus := 0xF3#8
  addrCtrlMeas := 0xF4#8
  addrConfig := 0xF5#8
  addrData := 0xF7#8
  addrCalA := 0x88#8
  addrCalB := 0xE1#8
  idExpected := 0x60#8
  valCtrlHum := ctrlHumByte 1#3
  valCtrlMeas := ctrlMeasByte 1#3 1#3 3#2
  valConfig := valConfig
  measuringBit := 3
  tWarmup := tWarmup
  tPoll := tPoll
  pollMax := pollMaxLessOne.val + 1
  h45Signed := false

/-! Free values. `State.draws` counts them; draw number `d` is the constant applied to `d`. Nothing
constrains any of them. -/

/-- The value of a 32-bit register, or of the low bits of a narrower one, that the spec leaves unspecified
(10_state.md R32, R38, R44, R45; log 3, log 4). -/
opaque freeWord : Nat → Word
/-- What an unconstrained transport answers to `BusOpen` or `AddrSelect` (20_memory.md R63; log 21). -/
opaque freeLink : Nat → Bool
/-- What an unconstrained transport answers to `TWrite` (20_memory.md R63; log 21). -/
opaque freeCount : Nat → Int
/-- What an unconstrained transport answers to `TRead` (20_memory.md R63; log 21); `none` is `fail`. -/
opaque freeRead : Nat → Option (List Byte)

end Config

end Sys2Proof
end

