-- ==== Sys2Proof/Machine/State.lean ====
section
/-! DEFINITION. The state of the machine: the block's own state (10_state.md R20 to R34), the
parameters it was built with, and the world outside it (the host's pending actions, the transport, the
event history), all plain data; the reasons a step can stop; the state after reset. -/

namespace Sys2Proof.Machine

/-- Why a step stops with a fault. -/
inductive Fault where
  /-- Raised by `step` when a transport call of an earlier command never returned (93_implementation_defined.md
  U15: stuck, no further step). Safe: the machine stops where the hardware also never goes on. -/
  | transportNeverReturned
  deriving DecidableEq, Repr

/-- Why an instruction has no meaning. -/
inductive Refusal where
  /-- Raised by an arm of `exec` whose instruction has no meaning yet. Safe. No arm raises it. -/
  | notModelled (mnemonic : String)
  deriving DecidableEq, Repr

/-- `SESS` (10_state.md R21); the value 3 never occurs. -/
inductive Sess where
  /-- `CLOSED = 0` -/
  | closed
  /-- `OPEN = 1` -/
  | opened
  /-- `ABORTED = 2` -/
  | aborted
  deriving DecidableEq, Repr

/-- `ERR` (60_exceptions.md R215); the codes 5 to 15 are never produced. -/
inductive ErrCode where
  /-- code 0: no error -/
  | clear
  /-- code 1 (R216) -/
  | transportError
  /-- code 2 (R217) -/
  | ioError
  /-- code 3 (R218) -/
  | illegalCommand
  /-- code 4 (R219) -/
  | orderViolation
  deriving DecidableEq, Repr

/-- The calibration file `CAL[0..17]` (10_state.md R27), each entry the bit pattern of its stored type. -/
structure CalFile where
  /-- u16 -/
  t1 : BitVec 16
  /-- s16 -/
  t2 : BitVec 16
  /-- s16 -/
  t3 : BitVec 16
  /-- u16 -/
  p1 : BitVec 16
  /-- s16 -/
  p2 : BitVec 16
  /-- s16 -/
  p3 : BitVec 16
  /-- s16 -/
  p4 : BitVec 16
  /-- s16 -/
  p5 : BitVec 16
  /-- s16 -/
  p6 : BitVec 16
  /-- s16 -/
  p7 : BitVec 16
  /-- s16 -/
  p8 : BitVec 16
  /-- s16 -/
  p9 : BitVec 16
  /-- u8 -/
  h1 : BitVec 8
  /-- s16 -/
  h2 : BitVec 16
  /-- u8 -/
  h3 : BitVec 8
  /-- s16 -/
  h4 : BitVec 16
  /-- s16 -/
  h5 : BitVec 16
  /-- s8 -/
  h6 : BitVec 8
  deriving DecidableEq, Repr

/-- Every coefficient 0. -/
def CalFile.zero : CalFile := ⟨0, 0, 0, 0, 0, 0, 0, 0, 0, 0, 0, 0, 0, 0, 0, 0, 0, 0⟩

/-- Byte-addressed memory in canonical form: addresses strictly rising, no entry equal to `Memory.unlisted`.
Used for the registers of the reference device (20_memory.md R68). -/
abbrev Memory := List Host.Cell

/-- What an unlisted address of the reference device reads as: DESIGN CHOICE, log 9. -/
def Memory.unlisted : Byte := 0

/-- The canonical form, from the lowest address allowed; addresses are 8 bits wide (R62). -/
def Memory.wfFrom (lo : Nat) : Memory → Bool
  | [] => true
  | (a, b) :: m => decide (lo ≤ a) && decide (a < 256) && (b != Memory.unlisted) && Memory.wfFrom (a + 1) m

/-- The canonical form. -/
def Memory.wf (m : Memory) : Bool := Memory.wfFrom 0 m

/-- The reference device (20_memory.md R68): a deterministic transport for tests, no part of the block. -/
structure RefDevice where
  /-- `reg[0..255]` -/
  reg : Memory
  /-- `ptr` -/
  ptr : Byte
  /-- `open` -/
  isOpen : Bool
  deriving DecidableEq, Repr

/-- An answer of the transport (20_memory.md R63). An answer of another call's kind stands for the call's
failure (log 5). -/
inductive Reply where
  /-- `ok`, of `BusOpen` and `AddrSelect` -/
  | ok
  /-- `fail`, of `BusOpen`, `AddrSelect` and `TRead` -/
  | fail
  /-- the count `c` of `TWrite`, any integer -/
  | count (c : Int)
  /-- the bytes of `TRead` -/
  | bytes (bs : List Byte)
  deriving DecidableEq, Repr

/-- What the environment has chosen for one coming transport call (log 5, log 6). -/
inductive Scripted where
  /-- the device answers, or a free value where no device is attached -/
  | device
  /-- this answer, whatever the device would say (the faulty variant of R68) -/
  | reply (r : Reply)
  /-- the call never returns (93_implementation_defined.md U15) -/
  | never
  deriving DecidableEq, Repr

/-- One entry of the event history: a transport call, its argument and its answer (20_memory.md R64). -/
inductive Event where
  | busOpen (sel : Word) (ok : Bool)
  | addrSelect (sel : Word) (ok : Bool)
  | tWrite (bytes : List Byte) (count : Int)
  /-- `none` is the answer `fail` -/
  | tRead (n : Nat) (answer : Option (List Byte))
  | busClose
  | sleep (d : Duration)
  deriving DecidableEq, Repr

/-- The transport and what lies behind it (20_memory.md R63, R64, R68). -/
structure Bus where
  /-- answers chosen for the coming calls, the next one first -/
  script : List Scripted
  /-- the reference device, when one is attached -/
  device : Option RefDevice
  /-- the event history, oldest first -/
  history : List Event
  deriving DecidableEq, Repr

/-- What the host does next (30_encoding.md R100; reset: 10_state.md R45). -/
inductive HostAction where
  /-- `HR[n] <- v`; `n = 0` is a write to `CMD` -/
  | write (n : Nat) (v : Word)
  /-- write the next word of a pseudo-command to `CMD`, unless `SESS` is `ABORTED` (30_encoding.md R99) -/
  | follow (w : Word)
  /-- read `HR[n]`; the value the program's text expects, where it states one (30_encoding.md R100) -/
  | read (n : Nat) (expected : Option Word)
  /-- the block's reset -/
  | reset
  deriving DecidableEq, Repr

/-- A completed host read: the register index, the value returned, and the one the program's text expects, where it
states one (30_encoding.md R100). -/
structure HostRead where
  index : Nat
  value : Word
  expected : Option Word
  deriving DecidableEq, Repr

/-- The state of the machine. -/
structure State where
  /-- `SESS` (R21) -/
  sess : Sess
  /-- `BUS_HELD` (R22) -/
  busHeld : Bool
  /-- `ERR` (R23) -/
  err : ErrCode
  /-- `ERRCMD` (R23) -/
  errCmd : Word
  /-- `ERRSTEP` (R23) -/
  errStep : BitVec 16
  /-- `WARN_ID` (R24) -/
  warnId : Bool
  /-- `CAL_VALID` (R25) -/
  calValid : Bool
  /-- `RAW_VALID` (R25) -/
  rawValid : Bool
  /-- `TF_VALID` (R25) -/
  tfValid : Bool
  /-- `T_VALID` (R25) -/
  tValid : Bool
  /-- `P_VALID` (R25) -/
  pValid : Bool
  /-- `H_VALID` (R25) -/
  hValid : Bool
  /-- `ID_VALID` (R25) -/
  idValid : Bool
  /-- `OVF` (R26) -/
  ovf : Bool
  /-- `PGUARD` (R26) -/
  pGuard : Bool
  /-- `POLL_TIMEOUT` (R26) -/
  pollTimeout : Bool
  /-- `CAL[0..17]` (R27) -/
  cal : CalFile
  /-- `ADC_P` (R28) -/
  adcP : BitVec 20
  /-- `ADC_T` (R28) -/
  adcT : BitVec 20
  /-- `ADC_H` (R28) -/
  adcH : BitVec 16
  /-- `T_FINE` (R29), an s32 pattern -/
  tFine : Word
  /-- `T_OUT` (R30), an s32 pattern -/
  tOut : Word
  /-- `P_OUT` (R30) -/
  pOut : Word
  /-- `H_OUT` (R30) -/
  hOut : Word
  /-- `RXBUF[0..32]` (R32) -/
  rxbuf : Vector Byte 33
  /-- `RXV[0..32]` (R32): bit `i` is `RXV[i]` -/
  rxv : BitVec 33
  /-- `DEVSEL` (R33) -/
  devSel : Word
  /-- `CHIPID` (R34) -/
  chipId : Byte
  /-- `POLLCNT` (R34) -/
  pollCnt : BitVec 16
  /-- `LASTCMD` (R34) -/
  lastCmd : Word
  /-- The parameters (00_scope.md R7 to R12): no step writes them (log 7). -/
  cfg : Params
  /-- The host's pending actions, oldest first (log 1). -/
  hostq : List HostAction
  /-- What the host's reads returned, oldest first (log 4). -/
  reads : List HostRead
  /-- The transport (R42, R63). -/
  bus : Bus
  /-- Free values drawn so far: the model's own field (log 3). -/
  draws : Nat
  /-- A transport call never returned: the model's own field (log 6). -/
  hung : Bool
  deriving DecidableEq, Repr

/-- The machine right after reset (10_state.md R45, 70_reset_and_hazards.md R240). The data registers, which
R45 leaves unspecified, are 0: DESIGN CHOICE, log 2. No host action is pending, the event history is empty,
and the transport is unconstrained. -/
def State.reset : State where
  sess := .closed
  busHeld := false
  err := .clear
  errCmd := 0
  errStep := 0
  warnId := false
  calValid := false
  rawValid := false
  tfValid := false
  tValid := false
  pValid := false
  hValid := false
  idValid := false
  ovf := false
  pGuard := false
  pollTimeout := false
  cal := CalFile.zero
  adcP := 0
  adcT := 0
  adcH := 0
  tFine := 0
  tOut := 0
  pOut := 0
  hOut := 0
  rxbuf := Vector.replicate 33 0
  rxv := 0
  devSel := 0
  chipId := 0
  pollCnt := 0
  lastCmd := 0
  cfg := Config.params
  hostq := []
  reads := []
  bus := ⟨[], none, []⟩
  draws := 0
  hung := false

end Sys2Proof.Machine
end

