-- ==== Sys2Proof/Machine/Operands.lean ====
section
/-! DEFINITION. The operand forms: a receive-buffer range `[k, k+n-1]` with its valid bits (10_state.md R32,
41_transport.md R122), the coefficient `CAL[i]` as the host sees it (R35), and the small bit helpers they use. -/

namespace Sys2Proof.Machine

/-! ## The receive buffer -/

/-- The mask of the `RXV` bits `k` to `k+n-1` (R32). -/
def rangeMask (k n : Nat) : BitVec 33 := BitVec.ofNat 33 ((2 ^ n - 1) <<< k)

/-- `RXBUF[k+i] <- bytes[i]` for each byte of the list, lowest offset first (R122). -/
def writeBytes (k : Nat) (bs : List Byte) (v : Vector Byte 33) : Vector Byte 33 :=
  match bs with
  | [] => v
  | b :: bs => writeBytes (k + 1) bs (v.setIfInBounds k b)

/-- `RXBUF[i]`, and 0 for an offset the buffer does not have (no command has one: R94). -/
def rxByte (v : Vector Byte 33) (i : Nat) : Byte := v[i]?.getD 0

/-- `RXV[i] = 1` for every `i` from 0 to `n-1` (43_unpack.md R166, R170). -/
def rxvCovers (rxv : BitVec 33) (n : Nat) : Bool := decide (rxv &&& rangeMask 0 n = rangeMask 0 n)

/-- `n` unspecified bytes, drawn from number `d` on (log 3). -/
def freeBytes (d n : Nat) : List Byte := (List.range n).map fun i => (Config.freeWord (d + i)).setWidth 8

/-! ## The bits of an address or a count -/

/-- The bytes of `TWrite`: the address alone, or address then value (20_memory.md R65, R66). -/
def writeTransfer (a : Byte) (v : Option Byte) : List Byte := a :: v.toList

/-- `ERRSTEP` for transport call number `n`, saturating at `0xFFFE` (60_exceptions.md R221). -/
def callNumber (n : Nat) : BitVec 16 := BitVec.ofNat 16 (min n 0xFFFE)

/-- `ERRSTEP` of a refused command (60_exceptions.md R218, R219, R221). -/
def refusedStep : BitVec 16 := 0xFFFF#16

/-! ## `CAL[i]` as a host register (R35) -/

/-- `CAL[i]`, sign-extended where its stored type is signed and zero-extended where it is unsigned (R27,
R35); 0 for an index the file does not have. -/
def calWord (i : Nat) (c : CalFile) : Word :=
  match i with
  | 0 => c.t1.setWidth 32
  | 1 => c.t2.signExtend 32
  | 2 => c.t3.signExtend 32
  | 3 => c.p1.setWidth 32
  | 4 => c.p2.signExtend 32
  | 5 => c.p3.signExtend 32
  | 6 => c.p4.signExtend 32
  | 7 => c.p5.signExtend 32
  | 8 => c.p6.signExtend 32
  | 9 => c.p7.signExtend 32
  | 10 => c.p8.signExtend 32
  | 11 => c.p9.signExtend 32
  | 12 => c.h1.setWidth 32
  | 13 => c.h2.signExtend 32
  | 14 => c.h3.setWidth 32
  | 15 => c.h4.signExtend 32
  | 16 => c.h5.signExtend 32
  | 17 => c.h6.signExtend 32
  | _ => 0

end Sys2Proof.Machine
end

