-- ==== Sys2Proof/Machine/Flags.lean ====
section
/-! DEFINITION. Flags: the wrapping arithmetic of the transforms with its overflow reports (00_scope.md R15 to
R17, 44_compensation.md R176), the sticky `OVF`, the valid bits a new raw sample clears (10_state.md R25), and
the host words made of flags, `STATUS` and `ERRINFO` (R36, R37). -/

namespace Sys2Proof.Machine

/-! ## Wrapping arithmetic that reports overflow -/

/-- `wrap_N(z)`: the `sN` value congruent to `z` modulo `2^N` (R15). -/
def wrapInt (N : Nat) (z : Int) : Int := z.bmod (2 ^ N)

/-- An `sN` value of a pseudocode block together with whether an operation behind it reported overflow
(R15, R176). -/
structure Fixed (N : Nat) where
  val : Int
  ovf : Bool
  deriving DecidableEq, Repr

variable {N : Nat}

/-- Narrow an exact result: wrap it, and report when that changed it, on top of earlier reports (R15). -/
def Fixed.narrow (z : Int) (earlier : Bool) : Fixed N :=
  ⟨wrapInt N z, earlier || decide (wrapInt N z ≠ z)⟩

/-- A constant or an input, widened by value (R15, R183). -/
def Fixed.ofInt (z : Int) : Fixed N := ⟨z, false⟩

/-- An unsigned input, widened by value. -/
def Fixed.unsigned {w : Nat} (b : BitVec w) : Fixed N := ⟨(b.toNat : Int), false⟩

/-- A signed input, widened by value. -/
def Fixed.signed {w : Nat} (b : BitVec w) : Fixed N := ⟨b.toInt, false⟩

/-- `a + b` (R15). -/
def Fixed.add (a b : Fixed N) : Fixed N := Fixed.narrow (a.val + b.val) (a.ovf || b.ovf)

/-- `a - b` (R15). -/
def Fixed.sub (a b : Fixed N) : Fixed N := Fixed.narrow (a.val - b.val) (a.ovf || b.ovf)

/-- `a * b` (R15). -/
def Fixed.mul (a b : Fixed N) : Fixed N := Fixed.narrow (a.val * b.val) (a.ovf || b.ovf)

/-- `a << n` (R15). -/
def Fixed.shl (a : Fixed N) (n : Nat) : Fixed N := Fixed.narrow (a.val * 2 ^ n) a.ovf

/-- `a >> n`: arithmetic, floor of the quotient, never overflows (R16). -/
def Fixed.shr (a : Fixed N) (n : Nat) : Fixed N := ⟨a.val / 2 ^ n, a.ovf⟩

/-- `a / b` for `b` not zero: truncates toward zero (R17). -/
def Fixed.div (a b : Fixed N) : Fixed N := Fixed.narrow (a.val.tdiv b.val) (a.ovf || b.ovf)

/-! ## Flags of the state -/

/-- `if ovf = 1 then OVF <- 1` (44_compensation.md R204 to R206): sticky (10_state.md R26). -/
def raiseOvf (ovf : Bool) (s : State) : State := { s with ovf := s.ovf || ovf }

/-- A new raw sample: `RAW_VALID <- 1` and the four per-cycle bits cleared (10_state.md R25, 43_unpack.md
R170). -/
def newCycle (s : State) : State :=
  { s with rawValid := true, tfValid := false, tValid := false, pValid := false, hValid := false }

/-! ## Flag words -/

/-- The 2-bit code of `SESS` (R21). -/
def sessCode (x : Sess) : BitVec 2 :=
  match x with
  | .closed => 0
  | .opened => 1
  | .aborted => 2

/-- The 4-bit code of `ERR` (60_exceptions.md R215). -/
def errCodeBits (e : ErrCode) : BitVec 4 :=
  match e with
  | .clear => 0
  | .transportError => 1
  | .ioError => 2
  | .illegalCommand => 3
  | .orderViolation => 4

/-- Bits 7:0 of `STATUS` (R36). -/
def statusLow (s : State) : BitVec 8 :=
  BitVec.ofBool s.hValid ++ BitVec.ofBool s.pValid ++ BitVec.ofBool s.tValid ++ BitVec.ofBool s.tfValid ++
    BitVec.ofBool s.rawValid ++ BitVec.ofBool s.calValid ++ sessCode s.sess

/-- Bits 15:8 of `STATUS` (R36); bits 15:14 read 0. -/
def statusMid (s : State) : BitVec 8 :=
  0#2 ++ BitVec.ofBool s.idValid ++ BitVec.ofBool s.busHeld ++ BitVec.ofBool s.pollTimeout ++
    BitVec.ofBool s.pGuard ++ BitVec.ofBool s.ovf ++ BitVec.ofBool s.warnId

/-- `STATUS` (R36); bits 31:20 read 0. -/
def statusWord (s : State) : Word := 0#12 ++ errCodeBits s.err ++ statusMid s ++ statusLow s

/-- `ERRINFO` (R37). -/
def errInfoWord (s : State) : Word := 0#12 ++ errCodeBits s.err ++ s.errStep

end Sys2Proof.Machine
end

