-- ==== Sys2Proof/Machine/Ops.lean ====
section
/-! DEFINITION. The shared operations: the reference device's memory, the transport calls (20_memory.md R63),
the two micro-operations `DevWrite1` and `DevBurst` (R65, R66), `ClearSession` (10_state.md R44), the error
procedure `Fail` (60_exceptions.md R222), the block's reset (R45), and the frame in which every command runs
(40_session.md R110, R114). -/

namespace Sys2Proof.Machine

/-! ## Memory of the reference device -/

/-- The byte at an address. -/
def Memory.get (m : Memory) (a : Nat) : Byte :=
  match m with
  | [] => Memory.unlisted
  | (x, b) :: rest => if x = a then b else Memory.get rest a

/-- Put a byte that differs from `Memory.unlisted` at an address. -/
def Memory.insert (m : Memory) (a : Nat) (b : Byte) : Memory :=
  match m with
  | [] => [(a, b)]
  | (x, c) :: rest =>
    if a < x then (a, b) :: (x, c) :: rest
    else if a = x then (a, b) :: rest
    else (x, c) :: Memory.insert rest a b

/-- Drop an address's entry. -/
def Memory.erase (m : Memory) (a : Nat) : Memory :=
  match m with
  | [] => []
  | (x, c) :: rest => if a = x then rest else (x, c) :: Memory.erase rest a

/-- Write a byte, keeping the canonical form. -/
def Memory.set (m : Memory) (a : Nat) (b : Byte) : Memory :=
  if b = Memory.unlisted then Memory.erase m a else Memory.insert m a b

/-- `n` bytes from address `a` on, modulo 256 (R68). -/
def Memory.readWrapped (m : Memory) (a : Nat) (n : Nat) : List Byte :=
  (List.range n).map fun i => Memory.get m ((a + i) % 256)

/-! ## The result of running pseudocode -/

/-- How a stretch of pseudocode ends: with a value, at a `raise E(step)` (00_scope.md R18), or inside a
transport call that never returns (93_implementation_defined.md U15). -/
inductive Run (α : Type) where
  | ok (a : α) (s : State)
  | raised (e : ErrCode) (step : Nat) (s : State)
  | hung (s : State)
  deriving Repr

/-- One stretch of pseudocode after another. -/
def Run.bind {α β : Type} (r : Run α) (f : α → State → Run β) : Run β :=
  match r with
  | .ok a s => f a s
  | .raised e n s => .raised e n s
  | .hung s => .hung s

/-! ## Transport calls (20_memory.md R63) -/

/-- Append an event to the history (R64). -/
def recordEvent (e : Event) (s : State) : State :=
  { s with bus := { s.bus with history := s.bus.history ++ [e] } }

/-- The answer `ok` or `fail` of a link call. -/
def Reply.isOk (r : Reply) : Bool :=
  match r with
  | .ok => true
  | .fail | .count _ | .bytes _ => false

/-- The count of `TWrite`; an answer that is no count stands for "failed" (log 5). -/
def Reply.asCount (r : Reply) : Int :=
  match r with
  | .count c => c
  | .ok | .fail | .bytes _ => -1

/-- The bytes of `TRead`; an answer that is no list of bytes stands for `fail` (log 5). -/
def Reply.asBytes (r : Reply) : Option (List Byte) :=
  match r with
  | .bytes bs => some bs
  | .ok | .fail | .count _ => none

/-- What answers a call for which the environment has chosen nothing: the device attached, else a free value
(R63, R68; log 21). -/
def askDevice {α : Type} (dev : RefDevice → α × RefDevice) (free : Nat → α) (event : α → Event) (s : State) : Run α :=
  match s.bus.device with
  | some d => .ok (dev d).1 (recordEvent (event (dev d).1) { s with bus := { s.bus with device := some (dev d).2 } })
  | none => .ok (free s.draws) (recordEvent (event (free s.draws)) { s with draws := s.draws + 1 })

/-- One transport call with an answer: the script speaks first, then the device, then a free value; the call and
its answer are recorded (R63, R64). -/
def ask {α : Type} (ofReply : Reply → α) (dev : RefDevice → α × RefDevice) (free : Nat → α) (event : α → Event)
    (s : State) : Run α :=
  match s.bus.script with
  | [] => askDevice dev free event s
  | .device :: rest => askDevice dev free event { s with bus := { s.bus with script := rest } }
  | .reply r :: rest => .ok (ofReply r) (recordEvent (event (ofReply r)) { s with bus := { s.bus with script := rest } })
  | .never :: rest => .hung { s with bus := { s.bus with script := rest } }

/-- `BusOpen(DEVSEL)`; the reference device answers `ok` (R68). -/
def busOpen (s : State) : Run Bool :=
  ask Reply.isOk (fun d => (true, { d with isOpen := true })) Config.freeLink (Event.busOpen s.devSel) s

/-- `AddrSelect(DEVSEL)`; the reference device answers `ok` (R68). -/
def addrSelect (s : State) : Run Bool :=
  ask Reply.isOk (fun d => (true, d)) Config.freeLink (Event.addrSelect s.devSel) s

/-- What the reference device does with `TWrite`: the pointer alone, or a register and then the pointer (R68). -/
def deviceWrite (a : Byte) (v : Option Byte) (d : RefDevice) : Int × RefDevice :=
  match v with
  | none => (1, { d with ptr := a })
  | some b => (2, { d with reg := Memory.set d.reg a.toNat b, ptr := a + 1 })

/-- What the reference device does with `TRead(n)` (R68). -/
def deviceRead (n : Nat) (d : RefDevice) : Option (List Byte) × RefDevice :=
  (some (Memory.readWrapped d.reg d.ptr.toNat n), { d with ptr := d.ptr + BitVec.ofNat 8 n })

/-- `TWrite` of an address, or of an address and a value. -/
def tWrite (a : Byte) (v : Option Byte) (s : State) : Run Int :=
  ask Reply.asCount (deviceWrite a v) Config.freeCount (Event.tWrite (writeTransfer a v)) s

/-- `TRead(n)`. -/
def tRead (n : Nat) (s : State) : Run (Option (List Byte)) :=
  ask Reply.asBytes (deviceRead n) Config.freeRead (Event.tRead n) s

/-- `BusClose()`: no answer, cannot fail (R63, 40_session.md R113). -/
def busClose (s : State) : State :=
  recordEvent .busClose { s with bus := { s.bus with device := s.bus.device.map fun d => { d with isOpen := false } } }

/-- `Sleep(d)`: returns (R63, 60_exceptions.md R229). -/
def sleepFor (d : Duration) (s : State) : State := recordEvent (.sleep d) s

/-! ## The two micro-operations -/

/-- `DevWrite1(a, v)` (R65), its one call being number `step` of the command. -/
def devWrite1 (step : Nat) (a v : Byte) (s : State) : Run Unit :=
  (tWrite a (some v) s).bind fun c s1 => if c = 2 then .ok () s1 else .raised .ioError step s1

/-- `DevBurst(a, n)` (R66), its two calls being numbers `step` and `step + 1` of the command. A `fail` counts as
no bytes (R63). -/
def devBurst (step : Nat) (a : Byte) (n : Nat) (s : State) : Run (List Byte) :=
  (tWrite a none s).bind fun c s1 =>
    if c = 1 then
      (tRead n s1).bind fun r s2 =>
        if (r.getD []).length = n then .ok (r.getD []) s2 else .raised .ioError (step + 1) s2
    else .raised .ioError step s1

/-- The bytes of a burst that succeeded land at `RXBUF[k..]` and become valid (10_state.md R32). -/
def putBytes (k : Nat) (bs : List Byte) (s : State) : State :=
  { s with rxbuf := writeBytes k bs s.rxbuf, rxv := s.rxv ||| rangeMask k bs.length }

/-- The bytes of a burst that failed become invalid and unspecified (10_state.md R32, 41_transport.md R122; log 3). -/
def dropBytes (k n : Nat) (s : State) : State :=
  { s with rxbuf := writeBytes k (freeBytes s.draws n) s.rxbuf, rxv := s.rxv &&& ~~~rangeMask k n, draws := s.draws + n }

/-- `DevBurst(a, n)` into `RXBUF[k..k+n-1]`, with what a failure does to those bytes (10_state.md R32). -/
def burstInto (step : Nat) (a : Byte) (n k : Nat) (s : State) : Run (List Byte) :=
  match devBurst step a n s with
  | .ok bs s1 => .ok bs (putBytes k bs s1)
  | .raised e st s1 => .raised e st (dropBytes k n s1)
  | .hung s1 => .hung s1

/-! ## Session data -/

/-- A calibration file nobody has written: free values from draw `d` on (log 3). -/
def freeCal (d : Nat) : CalFile where
  t1 := (Config.freeWord d).setWidth 16
  t2 := (Config.freeWord (d + 1)).setWidth 16
  t3 := (Config.freeWord (d + 2)).setWidth 16
  p1 := (Config.freeWord (d + 3)).setWidth 16
  p2 := (Config.freeWord (d + 4)).setWidth 16
  p3 := (Config.freeWord (d + 5)).setWidth 16
  p4 := (Config.freeWord (d + 6)).setWidth 16
  p5 := (Config.freeWord (d + 7)).setWidth 16
  p6 := (Config.freeWord (d + 8)).setWidth 16
  p7 := (Config.freeWord (d + 9)).setWidth 16
  p8 := (Config.freeWord (d + 10)).setWidth 16
  p9 := (Config.freeWord (d + 11)).setWidth 16
  h1 := (Config.freeWord (d + 12)).setWidth 8
  h2 := (Config.freeWord (d + 13)).setWidth 16
  h3 := (Config.freeWord (d + 14)).setWidth 8
  h4 := (Config.freeWord (d + 15)).setWidth 16
  h5 := (Config.freeWord (d + 16)).setWidth 16
  h6 := (Config.freeWord (d + 17)).setWidth 8

/-- Every data register becomes unspecified: a free value each (10_state.md R44; log 3). -/
def forgetData (s : State) : State :=
  { s with
    cal := freeCal s.draws
    adcP := (Config.freeWord (s.draws + 18)).setWidth 20
    adcT := (Config.freeWord (s.draws + 19)).setWidth 20
    adcH := (Config.freeWord (s.draws + 20)).setWidth 16
    tFine := Config.freeWord (s.draws + 21)
    tOut := Config.freeWord (s.draws + 22)
    pOut := Config.freeWord (s.draws + 23)
    hOut := Config.freeWord (s.draws + 24)
    chipId := (Config.freeWord (s.draws + 25)).setWidth 8
    rxbuf := writeBytes 0 (freeBytes (s.draws + 26) 33) s.rxbuf
    draws := s.draws + 59 }

/-- The valid bits, the other flags, `RXV` and `POLLCNT`, all cleared (10_state.md R44). -/
def clearFlags (s : State) : State :=
  { s with
    calValid := false, rawValid := false, tfValid := false, tValid := false, pValid := false, hValid := false
    idValid := false, warnId := false, ovf := false, pGuard := false, pollTimeout := false, rxv := 0, pollCnt := 0 }

/-- `ClearSession()` (10_state.md R44). -/
def clearSession (s : State) : State := forgetData (clearFlags s)

/-- The block's reset (10_state.md R45): the table, every data register unspecified, no transport event; the
device, the parameters and the host are not the block's (log 12). -/
def blockReset (s : State) : State :=
  { clearSession s with
    sess := .closed, busHeld := false, err := .clear, errCmd := 0, errStep := 0, lastCmd := 0, devSel := 0 }

/-! ## Errors -/

/-- The first error is recorded: `ERR`, `ERRCMD`, `ERRSTEP` (60_exceptions.md R222). -/
def recordError (e : ErrCode) (step : BitVec 16) (s : State) : State :=
  if s.err = .clear then { s with err := e, errCmd := s.lastCmd, errStep := step } else s

/-- An open session becomes an aborted one (60_exceptions.md R222). -/
def abortSession (s : State) : State :=
  if s.sess = .opened then { s with sess := .aborted } else s

/-- `Fail(E, step)` (60_exceptions.md R222): the machine's one exception. There is no return from it but
`CLOSE` and then `OPEN`, or reset (R226). -/
def fail (e : ErrCode) (step : BitVec 16) (s : State) : State := abortSession (recordError e step s)

/-- `if BUS_HELD = 1 then BusClose(); BUS_HELD <- 0` (40_session.md R113). -/
def releaseBus (s : State) : State :=
  if s.busHeld then { busClose s with busHeld := false } else s

/-- The return from an aborted session, and the end of any other: the bus released, the session's data cleared,
`SESS` closed, the recorded error kept (40_session.md R113, 60_exceptions.md R226). -/
def endSession (s : State) : State := { clearSession (releaseBus s) with sess := .closed }

/-! ## Running a command (40_session.md R110) -/

/-- `SessionAllows(c, SESS)` (40_session.md R114). -/
def sessionAllows (i : Instr) (x : Sess) : Bool :=
  match i with
  | .nop | .closeSession => true
  | .openSession => decide (x = .closed)
  | .wr1 _ _ | .rd1 _ | .brd _ _ _ => decide (x = .opened)
  | .chkid | .ldcal | .cfg | .poll | .rdraw => decide (x = .opened)
  | .unpkc | .unpkr | .cmpt | .cmpp | .cmph => decide (x = .opened)

/-- `DataPrecondition(c)`: the table of 60_exceptions.md R219. -/
def dataPrecondition (i : Instr) (s : State) : Bool :=
  match i with
  | .ldcal => !s.calValid
  | .unpkc => !s.calValid && rxvCovers s.rxv 33
  | .unpkr => rxvCovers s.rxv 8
  | .cmpt => s.calValid && s.rawValid
  | .cmpp | .cmph => s.calValid && s.rawValid && s.tfValid
  | .nop | .openSession | .closeSession | .wr1 _ _ | .rd1 _ | .brd _ _ _ => true
  | .chkid | .cfg | .poll | .rdraw => true

/-- The end of a command's pseudocode: done, `Fail` at the failing call, or stuck (R110, R222; log 6). -/
def settle (r : Run Unit) : State :=
  match r with
  | .ok _ s => s
  | .raised e n s => fail e (callNumber n) s
  | .hung s => { s with hung := true }

/-- `Exec` after the illegal check (R110): the session check, the data precondition, then the command's own
pseudocode. -/
def command (i : Instr) (body : State → Run Unit) (s : State) : Host.Outcome State Fault Refusal :=
  .next
    (if sessionAllows i s.sess then
      if dataPrecondition i s then settle (body s) else fail .orderViolation refusedStep s
    else fail .orderViolation refusedStep s)

end Sys2Proof.Machine
end

