-- ==== Sys2Proof/Machine/Compensate.lean ====
section
/-! DEFINITION. The compensation engine (44_compensation.md): the pure transforms `comp_T`, `comp_P`, `comp_H`
and the commands CMPT, CMPP, CMPH. Every operation is the wrapping one of 00_scope.md R15 to R17 and carries its
overflow report along, so a result's `ovf` is the OR of all reports (R176). -/

namespace Sys2Proof.Machine

/-! ## Temperature (R177 to R181), s32 -/

/-- `var1` (R178). -/
def tempTerm1 (adcT : BitVec 20) (t1 t2 : BitVec 16) : Fixed 32 :=
  ((((Fixed.unsigned adcT).shr 3).sub ((Fixed.unsigned t1).shl 1)).mul (Fixed.signed t2)).shr 11

/-- `b` (R179). -/
def tempDiff (adcT : BitVec 20) (t1 : BitVec 16) : Fixed 32 :=
  ((Fixed.unsigned adcT).shr 4).sub (Fixed.unsigned t1)

/-- `var2` (R179). -/
def tempTerm2 (adcT : BitVec 20) (t1 t3 : BitVec 16) : Fixed 32 :=
  ((((tempDiff adcT t1).mul (tempDiff adcT t1)).shr 12).mul (Fixed.signed t3)).shr 14

/-- `t_fine = var1 + var2` (R180). -/
def tempFine (adcT : BitVec 20) (t1 t2 t3 : BitVec 16) : Fixed 32 :=
  (tempTerm1 adcT t1 t2).add (tempTerm2 adcT t1 t3)

/-- `T = (t_fine * 5 + 128) >> 8` (R181). -/
def tempCenti (tf : Fixed 32) : Fixed 32 := ((tf.mul (.ofInt 5)).add (.ofInt 128)).shr 8

/-- The results of `comp_T` (R177). -/
structure TempResult where
  tFine : Word
  t : Word
  ovf : Bool
  deriving DecidableEq, Repr

/-- `comp_T` (R177). -/
def compT (adcT : BitVec 20) (t1 t2 t3 : BitVec 16) : TempResult where
  tFine := BitVec.ofInt 32 (tempFine adcT t1 t2 t3).val
  t := BitVec.ofInt 32 (tempCenti (tempFine adcT t1 t2 t3)).val
  ovf := (tempCenti (tempFine adcT t1 t2 t3)).ovf

/-! ## Pressure (R183 to R190), s64 -/

/-- `v1` (R184). -/
def pressBase (tFine : Word) : Fixed 64 := (Fixed.signed tFine).sub (.ofInt 128000)

/-- The last `v2` of R184. -/
def pressOffset (v1 : Fixed 64) (c : CalFile) : Fixed 64 :=
  (((v1.mul v1).mul (.signed c.p6)).add ((v1.mul (.signed c.p5)).shl 17)).add ((Fixed.signed c.p4).shl 35)

/-- The first `d` of R185. -/
def pressSlope (v1 : Fixed 64) (c : CalFile) : Fixed 64 :=
  (((v1.mul v1).mul (.signed c.p3)).shr 8).add ((v1.mul (.signed c.p2)).shl 12)

/-- The second `d` of R185: the primary denominator term. -/
def pressDenom (v1 : Fixed 64) (c : CalFile) : Fixed 64 :=
  ((((Fixed.ofInt 1).shl 47).add (pressSlope v1 c)).mul (.unsigned c.p1)).shr 33

/-- `q` (R188). -/
def pressQuot (adcP : BitVec 20) (v2 d : Fixed 64) : Fixed 64 :=
  (((((Fixed.ofInt 1048576).sub (.unsigned adcP)).shl 31).sub v2).mul (.ofInt 3125)).div d

/-- `r` (R189). -/
def pressCorrect (q : Fixed 64) (c : CalFile) : Fixed 64 :=
  (((q.add ((((Fixed.signed c.p9).mul (q.shr 13)).mul (q.shr 13)).shr 25)).add
    (((Fixed.signed c.p8).mul q).shr 19)).shr 8).add ((Fixed.signed c.p7).shl 4)

/-- The results of `comp_P` (R183). -/
structure PressResult where
  p : Word
  guard : Bool
  ovf : Bool
  deriving DecidableEq, Repr

/-- R190: `P = r mod 2^32`, with a report when `r` is not a u32. -/
def pressFinish (r : Fixed 64) : PressResult where
  p := BitVec.ofInt 32 r.val
  guard := false
  ovf := r.ovf || decide (r.val < 0 ∨ 2 ^ 32 ≤ r.val)

/-- R187 to R190, over `v2` and `d`: the guard, or the quotient, its correction and the result. -/
def pressFrom (adcP : BitVec 20) (v2 d : Fixed 64) (c : CalFile) : PressResult :=
  if d.val = 0 then ⟨0, true, v2.ovf || d.ovf⟩ else pressFinish (pressCorrect (pressQuot adcP v2 d) c)

/-- `comp_P` (R183), over `P1` to `P9` of the calibration file. -/
def compP (adcP : BitVec 20) (tFine : Word) (c : CalFile) : PressResult :=
  pressFrom adcP (pressOffset (pressBase tFine) c) (pressDenom (pressBase tFine) c) c

/-! ## Humidity (R192 to R198), s32 -/

/-- `v` (R193). -/
def humBase (tFine : Word) : Fixed 32 := (Fixed.signed tFine).sub (.ofInt 76800)

/-- `x` (R194). -/
def humRaw (adcH : BitVec 16) (v : Fixed 32) (c : CalFile) : Fixed 32 :=
  (((((Fixed.unsigned adcH).shl 14).sub ((Fixed.signed c.h4).shl 20)).sub ((Fixed.signed c.h5).mul v)).add
    (.ofInt 16384)).shr 15

/-- The last `y` of R195. -/
def humCoeff (v : Fixed 32) (c : CalFile) : Fixed 32 :=
  ((((((((v.mul (.signed c.h6)).shr 10).mul (((v.mul (.unsigned c.h3)).shr 11).add (.ofInt 32768))).shr 10).add
    (.ofInt 2097152)).mul (.signed c.h2)).add (.ofInt 8192)).shr 14)

/-- `w` from `u` (R196). -/
def humCorrect (u : Fixed 32) (c : CalFile) : Fixed 32 :=
  u.sub (((((u.shr 15).mul (u.shr 15)).shr 7).mul (.unsigned c.h1)).shr 4)

/-- The clamp (R197). -/
def humClamp (w : Int) : Int := if w < 0 then 0 else if 419430400 < w then 419430400 else w

/-- The results of `comp_H` (R192). -/
structure HumResult where
  h : Word
  ovf : Bool
  deriving DecidableEq, Repr

/-- `w` of `comp_H` (R193 to R196). -/
def humUnclamped (adcH : BitVec 16) (tFine : Word) (c : CalFile) : Fixed 32 :=
  humCorrect ((humRaw adcH (humBase tFine) c).mul (humCoeff (humBase tFine) c)) c

/-- `comp_H` (R192): `H = c >> 12` (R198). -/
def compH (adcH : BitVec 16) (tFine : Word) (c : CalFile) : HumResult where
  h := BitVec.ofInt 32 (humClamp (humUnclamped adcH tFine c).val / 2 ^ 12)
  ovf := (humUnclamped adcH tFine c).ovf

/-! ## The commands -/

/-- What `CMPT` writes (R204). -/
def storeTemp (r : TempResult) (s : State) : State :=
  raiseOvf r.ovf { s with tFine := r.tFine, tfValid := true, tOut := r.t, tValid := true }

/-- What `CMPP` writes (R205). -/
def storePress (r : PressResult) (s : State) : State :=
  raiseOvf r.ovf { s with pOut := r.p, pValid := true, pGuard := r.guard }

/-- What `CMPH` writes (R206). -/
def storeHum (r : HumResult) (s : State) : State := raiseOvf r.ovf { s with hOut := r.h, hValid := true }

/-- `CMPT` (R204). -/
def execCmpt (s : State) : Host.Outcome State Fault Refusal :=
  command .cmpt (fun s => .ok () (storeTemp (compT s.adcT s.cal.t1 s.cal.t2 s.cal.t3) s)) s

/-- `CMPP` (R205). -/
def execCmpp (s : State) : Host.Outcome State Fault Refusal :=
  command .cmpp (fun s => .ok () (storePress (compP s.adcP s.tFine s.cal) s)) s

/-- `CMPH` (R206). -/
def execCmph (s : State) : Host.Outcome State Fault Refusal :=
  command .cmph (fun s => .ok () (storeHum (compH s.adcH s.tFine s.cal) s)) s

end Sys2Proof.Machine
end

