-- ==== Sys2Proof/Machine/Transport.lean ====
section
/-! DEFINITION. The register burst-read sequencer: WR1, RD1, BRD (41_transport.md R120 to R124). Nothing is
retried (R124). -/

namespace Sys2Proof.Machine

/-- `WR1 a, v` (R120): one call, number 0. -/
def execWr1 (a v : Byte) (s : State) : Host.Outcome State Fault Refusal := command (.wr1 a v) (devWrite1 0 a v) s

/-- The pseudocode of `BRD a, n, k` (R122): calls 0 and 1. -/
def brdBody (a : Byte) (n k : Nat) (s : State) : Run Unit :=
  (burstInto 0 a n k s).bind fun _ s1 => .ok () s1

/-- `RD1 a` (R121): one byte into `RXBUF[0]`. -/
def execRd1 (a : Byte) (s : State) : Host.Outcome State Fault Refusal := command (.rd1 a) (brdBody a 1 0) s

/-- `BRD a, n, k` (R122). A word that breaks R94 never reaches this: the decoder rejects it. -/
def execBrd (a n k : Byte) (s : State) : Host.Outcome State Fault Refusal :=
  command (.brd a n k) (brdBody a n.toNat k.toNat) s

end Sys2Proof.Machine
end

