-- ==== Sys2Proof/Machine/Unpack.lean ====
section
/-! DEFINITION. The bit-unpacking unit (43_unpack.md): `unpack_cal`, `unpack_raw`, UNPKC, UNPKR. -/

namespace Sys2Proof.Machine

/-! ## Calibration decoding -/

/-- `le_u16(lo, hi) = lo + 256 * hi`, and the pattern of `le_s16` (R157). -/
def le16 (lo hi : Byte) : BitVec 16 := hi ++ lo

/-- `H4` as a 12-bit pattern: `(b3 << 4) | (b4 & 0x0F)` (R163). -/
def packedH4 (b3 b4 : Byte) : BitVec 12 := b3 ++ b4.extractLsb' 0 4

/-- `H5` as a 12-bit pattern: `(b5 << 4) | (b4 >> 4)` (R164). -/
def packedH5 (b4 b5 : Byte) : BitVec 12 := b5 ++ b4.extractLsb' 4 4

/-- A packed field in its 16-bit register: non-negative, or with its upper byte's sign when `H45_SIGNED`
(00_scope.md R12, R163, R164). -/
def packedField (h45Signed : Bool) (f : BitVec 12) : BitVec 16 := if h45Signed then f.signExtend 16 else f.setWidth 16

/-- `unpack_cal` (R158 to R165): pure and total; byte 24 carries nothing (R160). -/
def unpackCal (h45Signed : Bool) (r : Vector Byte 33) : CalFile where
  t1 := le16 r[0] r[1]
  t2 := le16 r[2] r[3]
  t3 := le16 r[4] r[5]
  p1 := le16 r[6] r[7]
  p2 := le16 r[8] r[9]
  p3 := le16 r[10] r[11]
  p4 := le16 r[12] r[13]
  p5 := le16 r[14] r[15]
  p6 := le16 r[16] r[17]
  p7 := le16 r[18] r[19]
  p8 := le16 r[20] r[21]
  p9 := le16 r[22] r[23]
  h1 := r[25]
  h2 := le16 r[26] r[27]
  h3 := r[28]
  h4 := packedField h45Signed (packedH4 r[29] r[30])
  h5 := packedField h45Signed (packedH5 r[30] r[31])
  h6 := r[32]

/-- `CAL[0..17] <- unpack_cal(RXBUF[0..32]); CAL_VALID <- 1` (R166, 42_sequences.md R136). -/
def loadCal (s : State) : State := { s with cal := unpackCal s.cfg.h45Signed s.rxbuf, calValid := true }

/-- `UNPKC` (R166). -/
def execUnpkc (s : State) : Host.Outcome State Fault Refusal := command .unpkc (fun s => .ok () (loadCal s)) s

/-! ## Raw sample assembly -/

/-- A 20-bit count: first byte most significant, the top nibble of the third last (R167, R168). -/
def raw20 (r0 r1 r2 : Byte) : BitVec 20 := r0 ++ r1 ++ r2.extractLsb' 4 4

/-- The 16-bit humidity count: first byte most significant (R168). -/
def raw16 (r6 r7 : Byte) : BitVec 16 := r6 ++ r7

/-- `(ADC_P, ADC_T, ADC_H) <- unpack_raw(RXBUF[0..7])`, and a new cycle begins (R169, R170,
42_sequences.md R139). -/
def loadRaw (s : State) : State :=
  newCycle
    { s with
      adcP := raw20 s.rxbuf[0] s.rxbuf[1] s.rxbuf[2]
      adcT := raw20 s.rxbuf[3] s.rxbuf[4] s.rxbuf[5]
      adcH := raw16 s.rxbuf[6] s.rxbuf[7] }

/-- `UNPKR` (R170). -/
def execUnpkr (s : State) : Host.Outcome State Fault Refusal := command .unpkr (fun s => .ok () (loadRaw s)) s

end Sys2Proof.Machine
end

