-- ==== Sys2Proof/Machine/Sequences.lean ====
section
/-! DEFINITION. The sequencer's fixed programs: CHKID, LDCAL, CFG, POLL, RDRAW (42_sequences.md R135 to R139).
Transport calls are numbered from 0 within a command, `Sleep` not counted. -/

namespace Sys2Proof.Machine

/-- `CHIPID <- b; ID_VALID <- 1; if b != ID_EXPECTED then WARN_ID <- 1` (R135, 60_exceptions.md R220). -/
def noteChipId (b : Byte) (s : State) : State :=
  { s with chipId := b, idValid := true, warnId := s.warnId || decide (b ≠ s.cfg.idExpected) }

/-- The pseudocode of `CHKID` (R135). -/
def chkidBody (s : State) : Run Unit :=
  (burstInto 0 s.cfg.addrId 1 0 s).bind fun bs s1 => .ok () (noteChipId (bs.headD 0) s1)

/-- `CHKID` (R135). -/
def execChkid (s : State) : Host.Outcome State Fault Refusal := command .chkid chkidBody s

/-- The pseudocode of `LDCAL` (R136): block A is calls 0 and 1, block B calls 2 and 3. -/
def ldcalBody (s : State) : Run Unit :=
  (burstInto 0 s.cfg.addrCalA Config.lenCalA 0 s).bind fun _ s1 =>
    (burstInto 2 s1.cfg.addrCalB Config.lenCalB Config.lenCalA s1).bind fun _ s2 => .ok () (loadCal s2)

/-- `LDCAL` (R136). -/
def execLdcal (s : State) : Host.Outcome State Fault Refusal := command .ldcal ldcalBody s

/-- The pseudocode of `CFG` (R137): three writes, calls 0, 1 and 2. -/
def cfgBody (s : State) : Run Unit :=
  (devWrite1 0 s.cfg.addrCtrlHum s.cfg.valCtrlHum s).bind fun _ s1 =>
    (devWrite1 1 s1.cfg.addrCtrlMeas s1.cfg.valCtrlMeas s1).bind fun _ s2 =>
      devWrite1 2 s2.cfg.addrConfig s2.cfg.valConfig s2

/-- `CFG` (R137). -/
def execCfg (s : State) : Host.Outcome State Fault Refusal := command .cfg cfgBody s

/-- The loop of `POLL` (R138) with `fuel` reads left of `POLL_MAX` and `i` made; read `i` is calls `2i` and
`2i + 1`. A `Sleep(T_POLL)` follows every read that found the device measuring, the last one too. -/
def pollLoop (fuel i : Nat) (s : State) : Run Unit :=
  match fuel with
  | 0 => .ok () { s with pollTimeout := true }
  | fuel + 1 =>
    (burstInto (2 * i) s.cfg.addrStatus 1 0 s).bind fun bs s1 =>
      if (bs.headD 0).getLsbD s.cfg.measuringBit.val then
        pollLoop fuel (i + 1) (sleepFor s.cfg.tPoll { s1 with pollCnt := BitVec.ofNat 16 (i + 1) })
      else .ok () { s1 with pollCnt := BitVec.ofNat 16 (i + 1) }

/-- The pseudocode of `POLL` (R138). -/
def pollBody (s : State) : Run Unit :=
  pollLoop s.cfg.pollMax 0 (sleepFor s.cfg.tWarmup { s with pollCnt := 0, pollTimeout := false })

/-- `POLL` (R138). -/
def execPoll (s : State) : Host.Outcome State Fault Refusal := command .poll pollBody s

/-- The pseudocode of `RDRAW` (R139). -/
def rdrawBody (s : State) : Run Unit :=
  (burstInto 0 s.cfg.addrData Config.lenData 0 s).bind fun _ s1 => .ok () (loadRaw s1)

/-- `RDRAW` (R139). -/
def execRdraw (s : State) : Host.Outcome State Fault Refusal := command .rdraw rdrawBody s

end Sys2Proof.Machine
end

