-- ==== Sys2Proof/Machine/Session.lean ====
section
/-! DEFINITION. The session commands NOP, OPEN, CLOSE (40_session.md R111 to R113). -/

namespace Sys2Proof.Machine

/-- `NOP` (R111): nothing after `LASTCMD <- cw`, which the host's write has done. -/
def execNop (s : State) : Host.Outcome State Fault Refusal := command .nop (fun s => .ok () s) s

/-- What `OPEN` does before its first transport call (R112). -/
def startSession (s : State) : State :=
  { clearSession { s with err := .clear, errCmd := 0, errStep := 0 } with sess := .opened }

/-- The pseudocode of `OPEN` (R112): `BusOpen` is call 0, `AddrSelect` call 1. -/
def openBody (s : State) : Run Unit :=
  (busOpen (startSession s)).bind fun r0 s1 =>
    if r0 then
      (addrSelect { s1 with busHeld := true }).bind fun r1 s2 =>
        if r1 then .ok () s2 else .raised .transportError 1 s2
    else .raised .transportError 0 s1

/-- `OPEN` (R112). -/
def execOpenSession (s : State) : Host.Outcome State Fault Refusal := command .openSession openBody s

/-- `CLOSE` (R113). -/
def execCloseSession (s : State) : Host.Outcome State Fault Refusal :=
  command .closeSession (fun s => .ok () (endSession s)) s

end Sys2Proof.Machine
end

