-- ==== Sys2Proof/Machine/Dispatch.lean ====
section
/-! DEFINITION. One arm per command. -/

namespace Sys2Proof.Machine

def exec (i : Instr) (s : State) : Host.Outcome State Fault Refusal :=
  match i with
  | .nop => Sys2Proof.Machine.execNop s
  | .openSession => Sys2Proof.Machine.execOpenSession s
  | .closeSession => Sys2Proof.Machine.execCloseSession s
  | .wr1 a v => Sys2Proof.Machine.execWr1 a v s
  | .rd1 a => Sys2Proof.Machine.execRd1 a s
  | .brd a n k => Sys2Proof.Machine.execBrd a n k s
  | .chkid => Sys2Proof.Machine.execChkid s
  | .ldcal => Sys2Proof.Machine.execLdcal s
  | .cfg => Sys2Proof.Machine.execCfg s
  | .poll => Sys2Proof.Machine.execPoll s
  | .rdraw => Sys2Proof.Machine.execRdraw s
  | .unpkc => Sys2Proof.Machine.execUnpkc s
  | .unpkr => Sys2Proof.Machine.execUnpkr s
  | .cmpt => Sys2Proof.Machine.execCmpt s
  | .cmpp => Sys2Proof.Machine.execCmpp s
  | .cmph => Sys2Proof.Machine.execCmph s

end Sys2Proof.Machine
end

