-- ==== Sys2Proof/Machine/Readout.lean ====
section
/-! DEFINITION. Read-out as double precision (44_compensation.md R207 to R211): one IEEE 754 binary64 division of
two integers, round to nearest, ties to even. -/

namespace Sys2Proof.Machine

/-! ## One correctly rounded division of naturals -/

/-- Extra bits the quotient is computed with; enough for every divisor of R208 to R210. -/
def divScale : Nat := 80

/-- The scaled dividend. -/
def divNum (n : Nat) : Nat := n * 2 ^ divScale

/-- The position of the leading bit of the scaled quotient. -/
def divLead (n d : Nat) : Nat := Nat.log2 (divNum n / d)

/-- The weight of one unit in the last place of the significand, times the divisor. -/
def divUnit (n d : Nat) : Nat := d * 2 ^ (divLead n d - 52)

/-- The significand before rounding, and rounded to nearest with ties to even. -/
def divSig (n d : Nat) : Nat :=
  let f := divNum n / divUnit n d
  let r := divNum n % divUnit n d
  if divUnit n d < 2 * r ∨ (2 * r = divUnit n d ∧ f % 2 = 1) then f + 1 else f

/-- The binary64 pattern of `n / d` for `n` and `d` not zero, sign bit 0: biased exponent and fraction; a
significand rounded up to `2^53` carries into the exponent. -/
def divBits (n d : Nat) : Nat := (divLead n d + 1023 - divScale) * 2 ^ 52 + (divSig n d - 2 ^ 52)

/-- `f64(z) / f64(d)` for an integer `z` and a positive `d` (R207); the integer 0 gives `+0.0`. -/
def f64Div (z : Int) (d : Nat) : BitVec 64 :=
  if z = 0 then 0
  else BitVec.ofBool (decide (z < 0)) ++ BitVec.ofNat 63 (divBits z.natAbs d)

/-! ## The three outputs -/

/-- `to_celsius(T) = f64(T) / 100.0`, `T` an s32 (R208). -/
def toCelsius (t : Word) : BitVec 64 := f64Div t.toInt 100

/-- `to_hpa(P) = f64(P) / 25600.0`, `P` a u32 (R209). -/
def toHpa (p : Word) : BitVec 64 := f64Div (p.toNat : Int) 25600

/-- `to_rh(H) = f64(H) / 1024.0`, `H` a u32 (R210). -/
def toRh (h : Word) : BitVec 64 := f64Div (h.toNat : Int) 1024

/-- The source's PhysicalReading (R211): three binary64 patterns. -/
structure PhysicalReading where
  tempC : BitVec 64
  pressHpa : BitVec 64
  humRh : BitVec 64
  deriving DecidableEq, Repr

/-- The reading, complete when all three results are valid (R211). -/
def physicalReading (s : State) : Option PhysicalReading :=
  if s.tValid && s.pValid && s.hValid then some ⟨toCelsius s.tOut, toHpa s.pOut, toRh s.hOut⟩ else none

end Sys2Proof.Machine
end

