-- ==== Sys2Proof/Machine/HostRegs.lean ====
section
/-! DEFINITION. The host register file (10_state.md R35 to R40): what a read returns and what a write does. -/

namespace Sys2Proof.Machine

/-! ## Reads -/

/-- The content of a register guarded by a valid bit: unspecified (`none`) while the bit is 0 (R38). -/
def guarded (valid : Bool) (w : Word) : Option Word := if valid then some w else none

/-- Bits 31:0 of a binary64 pattern (R35). -/
def lowHalf (f : BitVec 64) : Word := f.extractLsb' 0 32

/-- Bits 63:32 of a binary64 pattern (R35). -/
def highHalf (f : BitVec 64) : Word := f.extractLsb' 32 32

/-- `HR[0x00]` to `HR[0x0F]` (R35). -/
def hostViewLow (n : Nat) (s : State) : Option Word :=
  match n with
  | 0x00 => some s.lastCmd
  | 0x01 => some (statusWord s)
  | 0x02 => some (errInfoWord s)
  | 0x03 => some s.errCmd
  | 0x04 => some s.devSel
  | 0x05 => some (s.pollCnt.setWidth 32)
  | 0x06 => guarded s.idValid (s.chipId.setWidth 32)
  | 0x07 => some (s.rxv.extractLsb' 0 32)
  | 0x08 => some ((s.rxv.extractLsb' 32 1).setWidth 32)
  | 0x09 => guarded s.rawValid (s.adcP.setWidth 32)
  | 0x0A => guarded s.rawValid (s.adcT.setWidth 32)
  | 0x0B => guarded s.rawValid (s.adcH.setWidth 32)
  | 0x0C => guarded s.tfValid s.tFine
  | 0x0D => guarded s.tValid s.tOut
  | 0x0E => guarded s.pValid s.pOut
  | 0x0F => guarded s.hValid s.hOut
  | _ => some 0

/-- `HR[0x22]` to `HR[0x27]`: the halves of the three outputs (R35, R31). -/
def hostViewF64 (n : Nat) (s : State) : Option Word :=
  match n with
  | 0x22 => guarded s.tValid (lowHalf (toCelsius s.tOut))
  | 0x23 => guarded s.tValid (highHalf (toCelsius s.tOut))
  | 0x24 => guarded s.pValid (lowHalf (toHpa s.pOut))
  | 0x25 => guarded s.pValid (highHalf (toHpa s.pOut))
  | 0x26 => guarded s.hValid (lowHalf (toRh s.hOut))
  | 0x27 => guarded s.hValid (highHalf (toRh s.hOut))
  | _ => some 0

/-- `RXBUFi` is register `0x40 + i` (R35). -/
def rxIndex (n : Nat) : Bool := decide (0x40 ≤ n) && decide (n ≤ 0x60)

/-- The content of `HR[n]`; `none` is "unspecified" (R35, R38); an unmapped index reads 0 (R40). -/
def hostView (n : Nat) (s : State) : Option Word :=
  if n ≤ 0x0F then hostViewLow n s
  else if n ≤ 0x21 then guarded s.calValid (calWord (n - 0x10) s.cal)
  else if n ≤ 0x27 then hostViewF64 n s
  else if rxIndex n then guarded (s.rxv.getLsbD (n - 0x40)) ((rxByte s.rxbuf (n - 0x40)).setWidth 32)
  else some 0

/-- A host read (R38): always allowed, no effect on the block; an unspecified value is a free draw. What was
returned is kept for the host (log 4), beside the value its program expects (30_encoding.md R100). -/
def hostRead (n : Nat) (expected : Option Word) (s : State) : State :=
  match hostView n s with
  | some v => { s with reads := s.reads ++ [⟨n, v, expected⟩] }
  | none => { s with reads := s.reads ++ [⟨n, Config.freeWord s.draws, expected⟩], draws := s.draws + 1 }

/-- Did a read return the value its program expects? It did where the text states none (30_encoding.md R100). -/
def HostRead.asExpected (r : HostRead) : Bool :=
  match r.expected with
  | some v => decide (r.value = v)
  | none => true

/-- Did every read of the program so far? A mismatch is the host's finding and stops nothing (log 23). -/
def readsAsExpected (s : State) : Bool := s.reads.all HostRead.asExpected

/-! ## Writes -/

/-- A host write to a register other than `CMD` (R39, R40): outside its condition, or to any other register, it
is ignored. -/
def hostWrite (n : Nat) (v : Word) (s : State) : State :=
  if n = 0x04 then
    if s.sess = .closed then { s with devSel := v } else s
  else if n = 0x0C then
    if s.sess = .opened then { s with tFine := v, tfValid := true } else s
  else if rxIndex n then
    if s.sess = .opened then putBytes (n - 0x40) [v.setWidth 8] s else s
  else s

end Sys2Proof.Machine
end

