-- ==== Sys2Proof/Machine/Host.lean ====
section
/-! DEFINITION. What one action of the host does: a command word (40_session.md R110), any other register write
or read (10_state.md R38, R39), or a reset (R45). -/

namespace Sys2Proof.Machine

/-- `Exec(cw)` (R110): `LASTCMD <- cw`, the illegal check, then the command. -/
def execWord (cw : Word) (s : State) : Host.Outcome State Fault Refusal :=
  match decode cw with
  | .error _ => .next (fail .illegalCommand refusedStep { s with lastCmd := cw })
  | .ok i => exec i { s with lastCmd := cw }

/-- One host action. The host writes a later word of a pseudo-command only while the session is not aborted
(30_encoding.md R99); else it goes on to its next action (log 24). -/
def hostAct (a : HostAction) (s : State) : Host.Outcome State Fault Refusal :=
  match a with
  | .write n v => if n = 0 then execWord v s else .next (hostWrite n v s)
  | .follow w => if s.sess = .aborted then .next s else execWord w s
  | .read n expected => .next (hostRead n expected s)
  | .reset => .next (blockReset s)

/-- The next pending action of the host; with none pending the block is idle and keeps all state
(60_exceptions.md R230; log 11). -/
def hostStep (s : State) : Host.Outcome State Fault Refusal :=
  match s.hostq with
  | [] => .next s
  | a :: rest => hostAct a { s with hostq := rest }

/-- The host's actions that issue a command, or the commands of a pseudo-command in order until the session is aborted
(30_encoding.md R99, R100). DESIGN CHOICE (log 24): the first word is written whatever `SESS` is. -/
def issue (is : List Instr) : List HostAction :=
  match is with
  | [] => []
  | i :: is => .write 0 (encode i) :: is.map fun j => .follow (encode j)

/-- The word the host is about to write to `CMD`, `nbits` bits of a row of the opcode table. -/
def fetchWord (nbits w : Nat) : Word := BitVec.ofNat 32 (w % 2 ^ nbits)

end Sys2Proof.Machine
end

