-- ==== Sys2Proof/Machine/Step.lean ====
section
/-! DEFINITION. The step of the machine: one action of the host, run to completion (00_scope.md R6). -/

namespace Sys2Proof.Machine

/-- One step. After a transport call that never returned there is none (93_implementation_defined.md U15). -/
def step (s : State) : Host.Outcome State Fault Refusal :=
  if s.hung then .fault .transportNeverReturned else hostStep s

/-- The block fetches nothing: a command word arrives as a host write to `CMD` (10_state.md R41, 20_memory.md
R77). So the word is put where step takes its next command from, at the head of the host's pending actions
(log 1). -/
def State.withFetchWord (s : State) (nbits w : Nat) : State :=
  { s with hostq := .write 0 (fetchWord nbits w) :: s.hostq }

end Sys2Proof.Machine
end

