-- ==== Sys2Proof/Safety.lean ====
section
/-! DEFINITION. What claims are stated with: the invariant of the machine, and the premise that the transport
answers. -/

namespace Sys2Proof.Machine

/-- The values `H4` and `H5` can hold (10_state.md R27, 43_unpack.md R163, R164). -/
def packedRange (h45Signed : Bool) (h : BitVec 16) : Prop :=
  if h45Signed then -2048 ≤ h.toInt ∧ h.toInt ≤ 2047 else h.toNat ≤ 4095

/-- `z` is an `sN` value (00_scope.md R14). -/
def signedFits (N : Nat) (z : Int) : Prop := -(2 ^ (N - 1) : Int) ≤ z ∧ z < 2 ^ (N - 1)

/-- The flags and counters that `ClearSession` clears are all clear (10_state.md R44). -/
def State.sessionClear (s : State) : Prop :=
  s.calValid = false ∧ s.rawValid = false ∧ s.tfValid = false ∧ s.tValid = false ∧ s.pValid = false ∧
    s.hValid = false ∧ s.idValid = false ∧ s.warnId = false ∧ s.ovf = false ∧ s.pGuard = false ∧
    s.pollTimeout = false ∧ s.rxv = 0 ∧ s.pollCnt = 0

/-- The host's next action writes the word `w` to `CMD`, alone or as a later word of a pseudo-command (30_encoding.md
R99, R100), and `rest` comes after it. -/
def State.issuesWord (s : State) (w : Word) (rest : List HostAction) : Prop :=
  s.hostq = .write 0 w :: rest ∨ (s.hostq = .follow w :: rest ∧ s.sess ≠ .aborted)

/-- What every step keeps. -/
structure State.Inv (s : State) : Prop where
  /-- the launch premises on the parameters (00_scope.md R7, R9) -/
  cfgWf : s.cfg.wf = true
  /-- the reference device's memory keeps its canonical form -/
  memWf : ∀ d, s.bus.device = some d → d.reg.wf = true
  /-- `BUS_HELD = 0` outside a session (10_state.md R22) -/
  closedBus : s.sess = .closed → s.busHeld = false
  /-- an open session has had no error (60_exceptions.md R222) -/
  openedErr : s.sess = .opened → s.err = .clear
  /-- an aborted session has recorded one (60_exceptions.md R222) -/
  abortedErr : s.sess = .aborted → s.err ≠ .clear
  /-- no error, nothing recorded (10_state.md R23) -/
  clearErr : s.err = .clear → s.errCmd = 0 ∧ s.errStep = 0
  /-- no data outside a session (10_state.md R44) -/
  closedClear : s.sess = .closed → s.sessionClear
  /-- a temperature result has its carry, sample and calibration (44_compensation.md R204, 10_state.md R25) -/
  tNeeds : s.tValid = true → s.tfValid = true ∧ s.rawValid = true ∧ s.calValid = true
  /-- a pressure result has its carry, sample and calibration (44_compensation.md R205, 10_state.md R25) -/
  pNeeds : s.pValid = true → s.tfValid = true ∧ s.rawValid = true ∧ s.calValid = true
  /-- a humidity result has its carry, sample and calibration (44_compensation.md R206, 10_state.md R25) -/
  hNeeds : s.hValid = true → s.tfValid = true ∧ s.rawValid = true ∧ s.calValid = true
  /-- only a `CHKID` that read the identity warns (42_sequences.md R135) -/
  warnNeeds : s.warnId = true → s.idValid = true
  /-- no warning, then the identity is the expected one (42_sequences.md R135) -/
  idMatches : s.idValid = true → s.warnId = false → s.chipId = s.cfg.idExpected
  /-- relative humidity is at most 100 percent (44_compensation.md R198) -/
  hRange : s.hValid = true → s.hOut.toNat ≤ 102400
  /-- the guard's pressure is 0 (44_compensation.md R187) -/
  guardZero : s.pValid = true → s.pGuard = true → s.pOut = 0
  /-- the packed coefficients are 12-bit values (10_state.md R27) -/
  calPacked : s.calValid = true → packedRange s.cfg.h45Signed s.cal.h4 ∧ packedRange s.cfg.h45Signed s.cal.h5
  /-- a poll makes at most `POLL_MAX` reads (42_sequences.md R138) -/
  pollBound : s.pollCnt.toNat ≤ s.cfg.pollMax
  /-- a poll that timed out made `POLL_MAX` reads (10_state.md R26) -/
  pollTimedOut : s.pollTimeout = true → s.pollCnt.toNat = s.cfg.pollMax

/-- `s` after transport calls that are the events `es`, the script standing at `rest` and nothing else changed. -/
def State.afterCalls (s : State) (rest : List Scripted) (es : List Event) : State :=
  { s with bus := { s.bus with script := rest, history := s.bus.history ++ es } }

/-- The environment's answers to the two calls of a burst that succeeds (20_memory.md R66). -/
def burstAnswers (bs : List Byte) : List Scripted := [.reply (.count 1), .reply (.bytes bs)]

/-- The two calls of a burst from device address `a` that succeeds with the bytes `bs` (20_memory.md R66). -/
def burstEvents (a : Byte) (bs : List Byte) : List Event := [.tWrite [a] 1, .tRead bs.length (some bs)]

/-- Is this event a device read? -/
def Event.isRead (e : Event) : Bool :=
  match e with
  | .tRead _ _ => true
  | .busOpen _ _ | .addrSelect _ _ | .tWrite _ _ | .busClose | .sleep _ => false

/-- The exponent field of a binary64 pattern. -/
def f64Exponent (b : BitVec 64) : Nat := (b.extractLsb' 52 11).toNat

/-- The significand of a normal binary64 pattern, hidden bit included. -/
def f64Significand (b : BitVec 64) : Nat := 2 ^ 52 + (b.extractLsb' 0 52).toNat

/-- The rational number a normal binary64 pattern stands for (IEEE 754; 00_scope.md R14). -/
def f64Value (b : BitVec 64) : ℚ :=
  (if b.getLsbD 63 then -1 else 1) * (f64Significand b : ℚ) * (2 : ℚ) ^ ((f64Exponent b : ℤ) - 1075)

/-- A normal binary64 pattern: neither zero, subnormal, infinite nor a NaN. -/
def f64Normal (b : BitVec 64) : Prop := f64Exponent b ≠ 0 ∧ f64Exponent b ≠ 2047

/-- The fairness premise (70_reset_and_hazards.md R252): no transport call has hung, and none the environment has
chosen an answer for will. -/
def State.transportAnswers (s : State) : Prop := s.hung = false ∧ Scripted.never ∉ s.bus.script

end Sys2Proof.Machine
end

