-- ==== Sys2Proof/Certificates/Slice0/Obligations.lean ====
section
/-! DEFINITION. The statements for the provers. Each docstring names the rule of spec/ it rests on. `exec i s` is the
command `i` on a state whose `LASTCMD` already holds its word (40_session.md R110). -/

open Sys2Proof Sys2Proof.Machine

/-! ## Encoding -/

/-- Words of 95_test_vectors.md V-D1 and what 30_encoding.md R92, R94, R95 make of them. -/
def Obligations.WordsDecodeAsTheTableSays : Prop :=
  decode 0x00000000#32 = .ok .nop ∧ decode 0x01000000#32 = .ok .openSession ∧
  decode 0x02000000#32 = .ok .closeSession ∧ decode 0x10F40027#32 = .ok (.wr1 0xF4 0x27) ∧
  decode 0x11D00000#32 = .ok (.rd1 0xD0) ∧ decode 0x12881A00#32 = .ok (.brd 0x88 26 0) ∧
  decode 0x12E1071A#32 = .ok (.brd 0xE1 7 26) ∧ decode 0x24000000#32 = .ok .rdraw ∧
  decode 0x31000000#32 = .ok .unpkr ∧ decode 0x42000000#32 = .ok .cmph ∧
  decode 0x03000000#32 = .error .unknownOp ∧ decode 0x10F40127#32 = .error .unusedFieldNonzero ∧
  decode 0x12002200#32 = .error .brdOutOfBounds

/-- No bit of an encoding is dropped: every well-formed command comes back from its word (R90 to R94). -/
def Obligations.DecodeOfEncodeIsTheCommand : Prop :=
  ∀ i : Instr, i.wf = true → decode (encode i) = .ok i

/-- A legal word has one meaning: the command it selects is well formed and has that word as its encoding
(R91 to R95). -/
def Obligations.EncodeOfDecodeIsTheWord : Prop :=
  ∀ (w : Word) (i : Instr), decode w = .ok i → i.wf = true ∧ encode i = w

/-- The decoder accepts exactly the words that a row of the match and mask table of R92 selects, but for a `BRD`
outside the bounds of R94. -/
def Obligations.LegalWordsAreTheTablesRows : Prop :=
  ∀ w : Word, (∃ i, decode w = .ok i) ↔
    (∃ r ∈ opcodeTable, r.selects w = true) ∧
      (fieldOp w = 0x12 → 1 ≤ (fieldN w).toNat ∧ (fieldN w).toNat ≤ 33 ∧ (fieldK w).toNat ≤ 32 ∧
        (fieldK w).toNat + (fieldN w).toNat ≤ 33)

/-- R92: no two rows match the same word. -/
def Obligations.NoWordSelectsTwoRows : Prop :=
  ∀ (w : Word) (r r' : OpcodeRow), r ∈ opcodeTable → r' ∈ opcodeTable →
    r.selects w = true → r'.selects w = true → r = r'

/-! ## The step and the error procedure -/

/-- A step with a host write of the word `w` to `CMD` pending executes `w` (40_session.md R110), with the action taken
off the queue: a legal word is its command, after `LASTCMD <- w`, and an illegal one goes the way of the next
statement. A later word of a pseudo-command is written in the same way unless the session is aborted; then it is not
issued, and nothing but the queue changes (30_encoding.md R99). That the host's actions wait in a queue is the model's
choice (log 1, log 24). -/
def Obligations.StepRunsTheDecodedCommand : Prop :=
  ∀ (s : State) (w : Word) (rest : List HostAction), s.hung = false →
    (s.issuesWord w rest →
      (∀ i : Instr, decode w = .ok i → step s = exec i { s with hostq := rest, lastCmd := w }) ∧
      (∀ e : DecodeError, decode w = .error e → step s = execWord w { s with hostq := rest })) ∧
    (s.hostq = .follow w :: rest → s.sess = .aborted → step s = .next { s with hostq := rest })

/-- R218: an illegal word records `IllegalCommand` with the word and step `0xFFFF` (unless an error stands recorded),
aborts an open session and changes nothing else, in every session state; no transport call is made. -/
def Obligations.IllegalWordIsRecordedAndNothingElse : Prop :=
  ∀ (s : State) (w : Word) (e : DecodeError), decode w = .error e →
    execWord w s = .next { s with
      lastCmd := w
      err := if s.err = .clear then .illegalCommand else s.err
      errCmd := if s.err = .clear then w else s.errCmd
      errStep := if s.err = .clear then 0xFFFF#16 else s.errStep
      sess := if s.sess = .opened then .aborted else s.sess }

/-- R222: the error procedure records the first error and aborts an open session; nothing else changes. A further
error then changes nothing at all (R223). -/
def Obligations.FailRecordsTheFirstErrorAndAborts : Prop :=
  ∀ (e : ErrCode) (n : BitVec 16) (s : State),
    fail e n s = { s with
      err := if s.err = .clear then e else s.err
      errCmd := if s.err = .clear then s.lastCmd else s.errCmd
      errStep := if s.err = .clear then n else s.errStep
      sess := if s.sess = .opened then .aborted else s.sess } ∧
    (e ≠ .clear → ∀ (e' : ErrCode) (n' : BitVec 16), fail e' n' (fail e n s) = fail e n s)

/-- 40_session.md R114 and the table of 60_exceptions.md R219: a command the session state does not allow, or whose
data precondition fails, is an `OrderViolation` with step `0xFFFF`; no transport call is made and no data register
changes. -/
def Obligations.OutOfOrderCommandIsAnOrderViolation : Prop :=
  ∀ (i : Instr) (s : State),
    ((i = .openSession ∧ s.sess ≠ .closed) ∨
     (i ≠ .nop ∧ i ≠ .openSession ∧ i ≠ .closeSession ∧ s.sess ≠ .opened) ∨
     (i = .ldcal ∧ s.calValid = true) ∨
     (i = .unpkc ∧ (s.calValid = true ∨ ∃ j < 33, s.rxv.getLsbD j = false)) ∨
     (i = .unpkr ∧ ∃ j < 8, s.rxv.getLsbD j = false) ∨
     (i = .cmpt ∧ (s.calValid = false ∨ s.rawValid = false)) ∨
     ((i = .cmpp ∨ i = .cmph) ∧ (s.calValid = false ∨ s.rawValid = false ∨ s.tfValid = false))) →
    exec i s = .next { s with
      err := if s.err = .clear then .orderViolation else s.err
      errCmd := if s.err = .clear then s.lastCmd else s.errCmd
      errStep := if s.err = .clear then 0xFFFF#16 else s.errStep
      sess := if s.sess = .opened then .aborted else s.sess }

/-- R226: the only ways out of an aborted session are `CLOSE` and reset, and until reset the recorded error stays.
Reset as a host action is the model's choice (log 1, log 12). -/
def Obligations.AbortedSessionIsLeftOnlyByCloseOrReset : Prop :=
  ∀ s t : State, s.Inv → s.sess = .aborted → step s = .next t →
    (∃ rest, s.hostq = .reset :: rest) ∨
      ((t.err = s.err ∧ t.errCmd = s.errCmd ∧ t.errStep = s.errStep) ∧
        (t.sess = .aborted ∨ (t.sess = .closed ∧ ∃ rest, s.hostq = .write 0 0x02000000#32 :: rest)))

/-- 10_state.md R23: a recorded error is changed only by an accepted `OPEN` and by reset (host actions: log 1,
log 12). -/
def Obligations.RecordedErrorIsKeptUntilOpenOrReset : Prop :=
  ∀ s t : State, s.err ≠ .clear → step s = .next t →
    (t.err = s.err ∧ t.errCmd = s.errCmd ∧ t.errStep = s.errStep) ∨
      (∃ rest, s.hostq = .reset :: rest) ∨
      (s.sess = .closed ∧ ∃ rest, s.issuesWord 0x01000000#32 rest)

/-- With no host action pending the block is idle and keeps all state (60_exceptions.md R230; the step itself is the
model's choice, log 11). After a transport call that never returned no step follows
(93_implementation_defined.md U15; its form is the model's choice, log 6). -/
def Obligations.IdleStepKeepsAllAndStuckStepStops : Prop :=
  ∀ s : State,
    (s.hung = false → s.hostq = [] → step s = .next s) ∧ (s.hung = true → step s = .fault .transportNeverReturned)

/-- While the transport answers, every step answers a next state: there is no other stop
(70_reset_and_hazards.md R252). How an answer that never comes is represented is the model's choice (log 6). -/
def Obligations.EveryStepCompletesWhileTransportAnswers : Prop :=
  ∀ s : State, s.transportAnswers → ∃ t, step s = .next t ∧ t.transportAnswers

/-- 20_memory.md R64, R74 and 10_state.md R43: a step only appends to the event history and to what the host has read,
and never writes the parameters. The list of what the host has read is the model's choice (log 4). -/
def Obligations.StepOnlyAppendsToHistory : Prop :=
  ∀ s t : State, step s = .next t →
    t.cfg = s.cfg ∧ s.bus.history <+: t.bus.history ∧ s.reads <+: t.reads

/-! ## The invariant -/

/-- The machine right after reset meets the invariant. -/
def Obligations.ResetMeetsTheInvariant : Prop := State.reset.Inv

/-- Every step keeps the invariant, from every state that meets it. -/
def Obligations.StepKeepsTheInvariant : Prop :=
  ∀ s t : State, s.Inv → step s = .next t → t.Inv

/-! ## Session commands -/

/-- R111: `NOP` changes nothing after `LASTCMD <- cw`, in every session state. -/
def Obligations.NopChangesOnlyLastCmd : Prop :=
  (∀ s : State, exec .nop s = .next s) ∧ ∀ s : State, execWord 0x00000000#32 s = .next { s with lastCmd := 0 }

/-- R112, both answers `ok`: the session is open, the bus held, errors and session data cleared, two calls made. -/
def Obligations.OpenCompletes : Prop :=
  ∀ (s : State) (rest : List Scripted), s.sess = .closed →
    s.bus.script = .reply .ok :: .reply .ok :: rest →
    ∃ t, exec .openSession s = .next t ∧
      t.sess = .opened ∧ t.busHeld = true ∧ t.err = .clear ∧ t.errCmd = 0 ∧ t.errStep = 0 ∧ t.sessionClear ∧
      t.bus = (s.afterCalls rest [.busOpen s.devSel true, .addrSelect s.devSel true]).bus ∧
      t.devSel = s.devSel ∧ t.lastCmd = s.lastCmd ∧ t.cfg = s.cfg ∧ t.hostq = s.hostq ∧ t.reads = s.reads ∧
      t.hung = s.hung

/-- R112, R216: `OPEN` from `CLOSED`, whatever answers it. A failed `BusOpen` is `TransportError` at step 0 and
`AddrSelect` is not called; a failed `AddrSelect` is `TransportError` at step 1 with the bus held. The last case is a
call that never returns. -/
def Obligations.OpenFollowsItsAnswers : Prop :=
  ∀ s : State, s.sess = .closed →
    ∃ t, exec .openSession s = .next t ∧ t.sessionClear ∧
      t.devSel = s.devSel ∧ t.lastCmd = s.lastCmd ∧ t.cfg = s.cfg ∧ t.hostq = s.hostq ∧ t.reads = s.reads ∧
      ((t.bus.history = s.bus.history ++ [.busOpen s.devSel true, .addrSelect s.devSel true] ∧
          t.sess = .opened ∧ t.busHeld = true ∧ t.err = .clear ∧ t.errCmd = 0 ∧ t.errStep = 0 ∧ t.hung = s.hung) ∨
       (t.bus.history = s.bus.history ++ [.busOpen s.devSel false] ∧
          t.sess = .aborted ∧ t.busHeld = s.busHeld ∧ t.err = .transportError ∧ t.errCmd = s.lastCmd ∧
          t.errStep = 0 ∧ t.hung = s.hung) ∨
       (t.bus.history = s.bus.history ++ [.busOpen s.devSel true, .addrSelect s.devSel false] ∧
          t.sess = .aborted ∧ t.busHeld = true ∧ t.err = .transportError ∧ t.errCmd = s.lastCmd ∧
          t.errStep = 1 ∧ t.hung = s.hung) ∨
       (Scripted.never ∈ s.bus.script ∧ t.hung = true ∧ t.sess = .opened ∧ t.err = .clear))

/-- R113: `CLOSE` releases a held bus with one call, clears the session's data and keeps the recorded error. -/
def Obligations.CloseReleasesBusAndClearsData : Prop :=
  ∀ s : State, ∃ t, exec .closeSession s = .next t ∧
    t.sess = .closed ∧ t.busHeld = false ∧ t.sessionClear ∧
    t.err = s.err ∧ t.errCmd = s.errCmd ∧ t.errStep = s.errStep ∧
    t.bus.history = s.bus.history ++ (if s.busHeld = true then [.busClose] else []) ∧
    t.bus.script = s.bus.script ∧
    t.devSel = s.devSel ∧ t.lastCmd = s.lastCmd ∧ t.cfg = s.cfg ∧ t.hostq = s.hostq ∧ t.reads = s.reads ∧
    t.hung = s.hung

/-- R45, R240: what a reset leaves, as an action of a running machine and in `State.reset`; no transport event. The
data registers are unspecified and not spoken of. That reset is a host action, and that it leaves the host's side and
the parameters alone, is the model's choice (log 12). -/
def Obligations.ResetLeavesTheTablesValues : Prop :=
  (∀ (s : State) (rest : List HostAction), s.hung = false → s.hostq = .reset :: rest →
    ∃ t, step s = .next t ∧ t.sess = .closed ∧ t.busHeld = false ∧ t.err = .clear ∧ t.errCmd = 0 ∧ t.errStep = 0 ∧
      t.sessionClear ∧ t.lastCmd = 0 ∧ t.devSel = 0 ∧ t.bus = s.bus ∧ t.cfg = s.cfg ∧ t.reads = s.reads ∧
      t.hostq = rest ∧ t.hung = s.hung) ∧
  State.reset.sess = .closed ∧ State.reset.busHeld = false ∧ State.reset.err = .clear ∧ State.reset.errCmd = 0 ∧
    State.reset.errStep = 0 ∧ State.reset.sessionClear ∧ State.reset.lastCmd = 0 ∧ State.reset.devSel = 0 ∧
    State.reset.bus.history = []

/-! ## Transport commands -/

/-- R120: `WR1 a, v` with the count 2 makes the one call `TWrite([a, v])` and changes nothing else. -/
def Obligations.Wr1MakesOneWrite : Prop :=
  ∀ (s : State) (a v : Byte) (rest : List Scripted), s.sess = .opened →
    s.bus.script = .reply (.count 2) :: rest →
    exec (.wr1 a v) s = .next (s.afterCalls rest [.tWrite [a, v] 2])

/-- R120, R65: every other count, a larger or a negative one too, is `IOError` at step 0. -/
def Obligations.Wr1WrongCountIsAnIoError : Prop :=
  ∀ (s : State) (a v : Byte) (c : Int) (rest : List Scripted), s.sess = .opened → c ≠ 2 →
    s.bus.script = .reply (.count c) :: rest →
    exec (.wr1 a v) s = .next (fail .ioError 0 (s.afterCalls rest [.tWrite [a, v] c]))

/-- R122: `BRD a, n, k` with the counts it asks for stores byte `i` of the burst at `RXBUF[k+i]`, makes exactly those
bytes valid, and changes nothing else but the transport. -/
def Obligations.BrdStoresTheBurst : Prop :=
  ∀ (s : State) (a n k : Byte) (bs : List Byte) (rest : List Scripted), s.sess = .opened →
    (Instr.brd a n k).wf = true → bs.length = n.toNat → s.bus.script = burstAnswers bs ++ rest →
    ∃ t, exec (.brd a n k) s = .next t ∧
      t = { s.afterCalls rest (burstEvents a bs) with rxbuf := t.rxbuf, rxv := t.rxv } ∧
      (∀ (j : Nat) (hj : j < 33),
        t.rxbuf[j] = if k.toNat ≤ j ∧ j < k.toNat + n.toNat then bs.getD (j - k.toNat) 0 else s.rxbuf[j]) ∧
      (∀ j < 33, t.rxv.getLsbD j = if k.toNat ≤ j ∧ j < k.toNat + n.toNat then true else s.rxv.getLsbD j)

/-- R122, R66: a wrong count of the address write is `IOError` at step 0 and the read is not attempted; a read of any
other length than `n` is `IOError` at step 1. Either way no byte of the burst is valid, and every byte outside
`[k, k+n-1]` keeps its value and its valid bit. -/
def Obligations.FailedBurstDeliversNothing : Prop :=
  ∀ (s : State) (a n k : Byte) (es : List Event) (left : List Scripted) (number : BitVec 16), s.sess = .opened →
    (Instr.brd a n k).wf = true →
    ((∃ c : Int, c ≠ 1 ∧ s.bus.script = .reply (.count c) :: left ∧ es = [.tWrite [a] c] ∧ number = 0) ∨
     (∃ r : Reply, (r.asBytes.getD []).length ≠ n.toNat ∧ s.bus.script = .reply (.count 1) :: .reply r :: left ∧
        es = [.tWrite [a] 1, .tRead n.toNat r.asBytes] ∧ number = 1)) →
    ∃ t, exec (.brd a n k) s = .next t ∧
      t = { fail .ioError number (s.afterCalls left es) with rxbuf := t.rxbuf, rxv := t.rxv, draws := t.draws } ∧
      (∀ (j : Nat) (hj : j < 33), ¬(k.toNat ≤ j ∧ j < k.toNat + n.toNat) → t.rxbuf[j] = s.rxbuf[j]) ∧
      (∀ j < 33, t.rxv.getLsbD j = if k.toNat ≤ j ∧ j < k.toNat + n.toNat then false else s.rxv.getLsbD j)

/-- R123, R124: whatever answers it, a `BRD` in an open session makes at most one address write and one read of all
`n` bytes, in that order with nothing between, and never repeats either; it succeeds exactly when both counts are
right. -/
def Obligations.BurstIsOneTransaction : Prop :=
  ∀ (s t : State) (a n k : Byte), s.sess = .opened → s.hung = false → exec (.brd a n k) s = .next t →
    t.hung = true ∨
    (∃ c : Int, c ≠ 1 ∧ t.bus.history = s.bus.history ++ [.tWrite [a] c] ∧ t.sess = .aborted) ∨
    (∃ r : Option (List Byte), (r.getD []).length ≠ n.toNat ∧ t.sess = .aborted ∧
      t.bus.history = s.bus.history ++ [.tWrite [a] 1, .tRead n.toNat r]) ∨
    (∃ bs : List Byte, bs.length = n.toNat ∧ t.sess = .opened ∧ t.err = s.err ∧
      ∃ r : Option (List Byte), r.getD [] = bs ∧
        t.bus.history = s.bus.history ++ [.tWrite [a] 1, .tRead n.toNat r])

/-- R121: `RD1 a` does exactly what `BRD a, 1, 0` does, each recording the word that `LASTCMD` holds (log 19); with the
counts it asks for it puts the one byte in `RXBUF[0]`, makes it valid, and changes nothing else but the transport. -/
def Obligations.Rd1IsBrdOfOneByteIntoZero : Prop :=
  (∀ (a : Byte) (s : State), exec (.rd1 a) s = exec (.brd a 1 0) s) ∧
  ∀ (s : State) (a b : Byte) (rest : List Scripted), s.sess = .opened → s.bus.script = burstAnswers [b] ++ rest →
    exec (.rd1 a) s = .next { s.afterCalls rest (burstEvents a [b]) with
      rxbuf := s.rxbuf.set 0 b, rxv := s.rxv ||| 1#33 }

/-- 20_memory.md R68 with R120 and R122: with the reference device attached and nothing scripted, `WR1 a, v` puts `v` in
the device's register `a` and leaves every other one alone, in an open session with nothing scripted, so that
`BRD a, n, k`, which reads the `n` registers from `a` on, modulo 256, reads there what was written. That the registers are
a memory in canonical form is the model's choice (log 9). -/
def Obligations.ReferenceDeviceIsWrittenAndRead : Prop :=
  ∀ (s : State) (d : RefDevice), s.sess = .opened → s.bus.script = [] → s.bus.device = some d → d.reg.wf = true →
    (∀ a v : Byte, ∃ t d', exec (.wr1 a v) s = .next t ∧ t.bus.device = some d' ∧ d'.reg.wf = true ∧ t.err = s.err ∧
      t.sess = .opened ∧ t.bus.script = [] ∧ ∀ x : Nat, d'.reg.get x = if x = a.toNat then v else d.reg.get x) ∧
    (∀ a n k : Byte, (Instr.brd a n k).wf = true → ∃ t, exec (.brd a n k) s = .next t ∧ t.err = s.err ∧
      ∀ (i : Nat) (hi : k.toNat + i < 33), i < n.toNat →
        t.rxbuf[k.toNat + i] = d.reg.get ((a.toNat + i) % 256))

/-- The canonical form makes equal memories equal data: two memories in canonical form that read the same at every
address are the same list (the form is the model's, log 9). -/
def Obligations.CanonicalMemoriesAreEqualWhenTheyReadEqual : Prop :=
  ∀ m m' : Memory, m.wf = true → m'.wf = true → (∀ a < 256, m.get a = m'.get a) → m = m'

/-! ## The fixed programs -/

/-- R135, R220: `CHKID` with the counts it asks for. A byte that differs from `ID_EXPECTED` only sets `WARN_ID`, which
is never cleared here; it is no error. -/
def Obligations.ChkidReadsAndCompares : Prop :=
  ∀ (s : State) (b : Byte) (rest : List Scripted), s.sess = .opened → s.bus.script = burstAnswers [b] ++ rest →
    exec .chkid s = .next { s.afterCalls rest (burstEvents s.cfg.addrId [b]) with
      rxbuf := s.rxbuf.set 0 b, rxv := s.rxv ||| 1#33, chipId := b, idValid := true,
      warnId := if b = s.cfg.idExpected then s.warnId else true }

/-- R136: `LDCAL` with the counts it asks for: block A at `RXBUF[0..25]`, block B at `RXBUF[26..32]`, every byte valid,
the coefficients decoded from them, nothing else changed. -/
def Obligations.LdcalLoadsBothBlocks : Prop :=
  ∀ (s : State) (as bs : List Byte) (rest : List Scripted), s.sess = .opened → s.calValid = false →
    as.length = 26 → bs.length = 7 → s.bus.script = burstAnswers as ++ (burstAnswers bs ++ rest) →
    ∃ t, exec .ldcal s = .next t ∧
      t = { s.afterCalls rest (burstEvents s.cfg.addrCalA as ++ burstEvents s.cfg.addrCalB bs) with
        rxbuf := t.rxbuf, rxv := BitVec.allOnes 33, cal := unpackCal s.cfg.h45Signed t.rxbuf, calValid := true } ∧
      (∀ (j : Nat) (hj : j < 33), t.rxbuf[j] = (as ++ bs).getD j 0)

/-- R136, R224: an `LDCAL` that fails writes no coefficient. In block A it is `IOError` at step 0 or 1, block B is not
read, and the bytes 0 to 25 are invalid. In block B it is `IOError` at step 2 or 3, block A stays valid in
`RXBUF[0..25]`, and the bytes 26 to 32 are invalid. -/
def Obligations.FailedLdcalWritesNoCoefficient : Prop :=
  (∀ (s : State) (es : List Event) (left : List Scripted) (number : BitVec 16), s.sess = .opened → s.calValid = false →
    ((∃ c : Int, c ≠ 1 ∧ s.bus.script = .reply (.count c) :: left ∧
        es = [.tWrite [s.cfg.addrCalA] c] ∧ number = 0) ∨
     (∃ r : Reply, (r.asBytes.getD []).length ≠ 26 ∧ s.bus.script = .reply (.count 1) :: .reply r :: left ∧
        es = [.tWrite [s.cfg.addrCalA] 1, .tRead 26 r.asBytes] ∧ number = 1)) →
    ∃ t, exec .ldcal s = .next t ∧
      t = { fail .ioError number (s.afterCalls left es) with rxbuf := t.rxbuf, rxv := t.rxv, draws := t.draws } ∧
      (∀ (j : Nat) (hj : j < 33), 26 ≤ j → t.rxbuf[j] = s.rxbuf[j]) ∧
      (∀ j < 33, t.rxv.getLsbD j = if j < 26 then false else s.rxv.getLsbD j)) ∧
  (∀ (s : State) (as : List Byte) (es : List Event) (left : List Scripted) (number : BitVec 16),
    s.sess = .opened → s.calValid = false → as.length = 26 →
    ((∃ c : Int, c ≠ 1 ∧ s.bus.script = burstAnswers as ++ .reply (.count c) :: left ∧
        es = [.tWrite [s.cfg.addrCalB] c] ∧ number = 2) ∨
     (∃ r : Reply, (r.asBytes.getD []).length ≠ 7 ∧
        s.bus.script = burstAnswers as ++ .reply (.count 1) :: .reply r :: left ∧
        es = [.tWrite [s.cfg.addrCalB] 1, .tRead 7 r.asBytes] ∧ number = 3)) →
    ∃ t, exec .ldcal s = .next t ∧
      t = { fail .ioError number (s.afterCalls left (burstEvents s.cfg.addrCalA as ++ es)) with
        rxbuf := t.rxbuf, rxv := 0x3FFFFFF#33, draws := t.draws } ∧
      (∀ (j : Nat) (hj : j < 26), t.rxbuf[j] = as.getD j 0))

/-- R136: an `LDCAL` that succeeds leaves exactly the state that `BRD ADDR_CALA, 26, 0`; `BRD ADDR_CALB, 7, 26`; `UNPKC`
in a row leave, whatever answers the calls, but for `LASTCMD`, which `exec` leaves alone (log 19). -/
def Obligations.LdcalEqualsTwoBurstsAndUnpack : Prop :=
  ∀ s t : State, s.sess = .opened → s.calValid = false → exec .ldcal s = .next t → t.sess = .opened → t.hung = false →
    ∃ s1 s2, exec (.brd s.cfg.addrCalA 26 0) s = .next s1 ∧ exec (.brd s.cfg.addrCalB 7 26) s1 = .next s2 ∧
      exec .unpkc s2 = .next t

/-- R137: `CFG` with the counts it asks for makes three writes, in order, and changes nothing in the block. -/
def Obligations.CfgWritesThreeRegisters : Prop :=
  ∀ (s : State) (rest : List Scripted), s.sess = .opened →
    s.bus.script = .reply (.count 2) :: .reply (.count 2) :: .reply (.count 2) :: rest →
    exec .cfg s = .next (s.afterCalls rest
      [.tWrite [s.cfg.addrCtrlHum, s.cfg.valCtrlHum] 2, .tWrite [s.cfg.addrCtrlMeas, s.cfg.valCtrlMeas] 2,
       .tWrite [s.cfg.addrConfig, s.cfg.valConfig] 2])

/-- R137: `CFG` stops at its first failing write, with that write's number, and makes no later one. -/
def Obligations.CfgStopsAtItsFirstFailure : Prop :=
  ∀ (s : State) (c : Int) (rest : List Scripted), s.sess = .opened → c ≠ 2 →
    (s.bus.script = .reply (.count c) :: rest →
      exec .cfg s = .next (fail .ioError 0 (s.afterCalls rest [.tWrite [s.cfg.addrCtrlHum, s.cfg.valCtrlHum] c]))) ∧
    (s.bus.script = .reply (.count 2) :: .reply (.count c) :: rest →
      exec .cfg s = .next (fail .ioError 1 (s.afterCalls rest
        [.tWrite [s.cfg.addrCtrlHum, s.cfg.valCtrlHum] 2, .tWrite [s.cfg.addrCtrlMeas, s.cfg.valCtrlMeas] c]))) ∧
    (s.bus.script = .reply (.count 2) :: .reply (.count 2) :: .reply (.count c) :: rest →
      exec .cfg s = .next (fail .ioError 2 (s.afterCalls rest
        [.tWrite [s.cfg.addrCtrlHum, s.cfg.valCtrlHum] 2, .tWrite [s.cfg.addrCtrlMeas, s.cfg.valCtrlMeas] 2,
         .tWrite [s.cfg.addrConfig, s.cfg.valConfig] c])))

/-- R138: after `bs` status bytes with the measuring bit set, fewer than `POLL_MAX`, and then one with it clear, `POLL`
has made exactly one read more than `bs` has bytes, slept after each not-ready read, and not timed out. -/
def Obligations.PollStopsAtTheFirstReadyRead : Prop :=
  ∀ (s : State) (bs : List Byte) (b : Byte) (rest : List Scripted), s.sess = .opened → bs.length < s.cfg.pollMax →
    (∀ x ∈ bs, x.getLsbD s.cfg.measuringBit.val = true) → b.getLsbD s.cfg.measuringBit.val = false →
    s.bus.script = bs.flatMap (fun x => burstAnswers [x]) ++ (burstAnswers [b] ++ rest) →
    exec .poll s = .next { s.afterCalls rest
        (.sleep s.cfg.tWarmup :: (bs.flatMap (fun x => burstEvents s.cfg.addrStatus [x] ++ [.sleep s.cfg.tPoll]) ++
          burstEvents s.cfg.addrStatus [b])) with
      pollCnt := BitVec.ofNat 16 (bs.length + 1), pollTimeout := false,
      rxbuf := s.rxbuf.set 0 b, rxv := s.rxv ||| 1#33 }

/-- R138: `POLL_MAX` reads with the measuring bit set end the poll with `POLL_TIMEOUT`, and that is no error. -/
def Obligations.PollExhaustedIsNoError : Prop :=
  ∀ (s : State) (bs : List Byte) (b : Byte) (rest : List Scripted), s.sess = .opened →
    bs.length + 1 = s.cfg.pollMax → (∀ x ∈ bs ++ [b], x.getLsbD s.cfg.measuringBit.val = true) →
    s.bus.script = (bs ++ [b]).flatMap (fun x => burstAnswers [x]) ++ rest →
    exec .poll s = .next { s.afterCalls rest
        (.sleep s.cfg.tWarmup ::
          (bs ++ [b]).flatMap (fun x => burstEvents s.cfg.addrStatus [x] ++ [.sleep s.cfg.tPoll])) with
      pollCnt := BitVec.ofNat 16 s.cfg.pollMax, pollTimeout := true,
      rxbuf := s.rxbuf.set 0 b, rxv := s.rxv ||| 1#33 }

/-- R138: after `bs` not-ready reads a status read fails: `IOError` at step `2i` (address write) or `2i + 1` (read),
saturating at `0xFFFE`; `POLLCNT` holds the reads completed, `POLL_TIMEOUT` is 0 and `RXV[0]` is cleared. -/
def Obligations.PollFailureCountsCompletedReads : Prop :=
  ∀ (s : State) (bs : List Byte) (tail left : List Scripted) (es : List Event) (number : Nat),
    s.sess = .opened → bs.length < s.cfg.pollMax → (∀ x ∈ bs, x.getLsbD s.cfg.measuringBit.val = true) →
    ((∃ c : Int, c ≠ 1 ∧ tail = .reply (.count c) :: left ∧ es = [.tWrite [s.cfg.addrStatus] c] ∧
        number = 2 * bs.length) ∨
     (∃ r : Reply, (r.asBytes.getD []).length ≠ 1 ∧ tail = .reply (.count 1) :: .reply r :: left ∧
        es = [.tWrite [s.cfg.addrStatus] 1, .tRead 1 r.asBytes] ∧ number = 2 * bs.length + 1)) →
    s.bus.script = bs.flatMap (fun x => burstAnswers [x]) ++ tail →
    ∃ t, exec .poll s = .next t ∧
      t = { fail .ioError (BitVec.ofNat 16 (min number 0xFFFE)) (s.afterCalls left
              (.sleep s.cfg.tWarmup ::
                (bs.flatMap (fun x => burstEvents s.cfg.addrStatus [x] ++ [.sleep s.cfg.tPoll]) ++ es))) with
        pollCnt := BitVec.ofNat 16 bs.length, pollTimeout := false,
        rxbuf := t.rxbuf, rxv := s.rxv &&& ~~~1#33, draws := t.draws } ∧
      (∀ (j : Nat) (hj : j < 33), 0 < j → t.rxbuf[j] = s.rxbuf[j])

/-- R138: whatever answers, a `POLL` makes at most `POLL_MAX` reads and otherwise only writes the status register's
address and sleeps. While the transport answers (the premise of 70_reset_and_hazards.md R252) it ends: done, or aborted.
Without the premise its next state may be the stuck one, which is no completion (93_implementation_defined.md U15; the
form of that state is the model's choice, log 6). -/
def Obligations.PollIsBounded : Prop :=
  ∀ s : State, s.sess = .opened →
    ∃ t es, exec .poll s = .next t ∧ t.bus.history = s.bus.history ++ es ∧
      es.countP Event.isRead ≤ s.cfg.pollMax ∧
      (∀ e ∈ es, (∃ c, e = .tWrite [s.cfg.addrStatus] c) ∨ (∃ r, e = .tRead 1 r) ∨ e = .sleep s.cfg.tWarmup ∨
        e = .sleep s.cfg.tPoll) ∧
      (s.transportAnswers → t.hung = false ∧ (t.sess = .opened ∨ t.sess = .aborted))

/-- R139: `RDRAW` with the counts it asks for: eight bytes at `RXBUF[0..7]`, the three counts decoded from them, a new
cycle begun, nothing else changed. -/
def Obligations.RdrawReadsOneSample : Prop :=
  ∀ (s : State) (ds : List Byte) (rest : List Scripted), s.sess = .opened → ds.length = 8 →
    s.bus.script = burstAnswers ds ++ rest →
    ∃ t, exec .rdraw s = .next t ∧
      t = { s.afterCalls rest (burstEvents s.cfg.addrData ds) with
        rxbuf := t.rxbuf, rxv := s.rxv ||| 0xFF#33,
        adcP := raw20 (ds.getD 0 0) (ds.getD 1 0) (ds.getD 2 0),
        adcT := raw20 (ds.getD 3 0) (ds.getD 4 0) (ds.getD 5 0), adcH := raw16 (ds.getD 6 0) (ds.getD 7 0),
        rawValid := true, tfValid := false, tValid := false, pValid := false, hValid := false } ∧
      (∀ (j : Nat) (hj : j < 33), t.rxbuf[j] = if j < 8 then ds.getD j 0 else s.rxbuf[j])

/-- R139: an `RDRAW` that succeeds leaves exactly the state that `BRD ADDR_DATA, 8, 0`; `UNPKR` leave, but
for `LASTCMD`, which `exec` leaves alone (log 19). -/
def Obligations.RdrawEqualsBurstAndUnpack : Prop :=
  ∀ s t : State, s.sess = .opened → exec .rdraw s = .next t → t.sess = .opened → t.hung = false →
    ∃ s1, exec (.brd s.cfg.addrData 8 0) s = .next s1 ∧ exec .unpkr s1 = .next t

/-- R135, R136, R139, R221, R224. A `CHKID`, `LDCAL` or `RDRAW` whose burst fails, whatever the answers, is an
`IOError` at the number of the failing call, which is the last call made; it aborts the session and leaves the identity,
the coefficients, the raw sample, the carry, the results and their valid bits as they were. Of the receive buffer, which
the failed burst leaves unspecified where it would have landed: a `CHKID` (byte 0) or an `RDRAW` (bytes 0 to 7) whose
address write has a bad count is the error at step 0, one whose read has another length is the error at step 1; the bytes
of the burst become invalid, and every other byte keeps its value and its valid bit (`LDCAL`:
`FailedLdcalWritesNoCoefficient`). -/
def Obligations.FailedReadKeepsDataRegisters : Prop :=
  (∀ (i : Instr) (s t : State), i = .chkid ∨ (i = .ldcal ∧ s.calValid = false) ∨ i = .rdraw →
    s.sess = .opened → s.err = .clear → exec i s = .next t → t.sess = .aborted →
    t.err = .ioError ∧ t.errCmd = s.lastCmd ∧
    (t.errStep = 0 ∨ t.errStep = 1 ∨ (i = .ldcal ∧ (t.errStep = 2 ∨ t.errStep = 3))) ∧
    (∃ es last, t.bus.history = s.bus.history ++ es ++ [last] ∧ es.length = t.errStep.toNat ∧
      ((∃ a c, last = .tWrite [a] c ∧ c ≠ 1) ∨ (∃ n r, last = .tRead n r ∧ (r.getD []).length ≠ n))) ∧
    t.chipId = s.chipId ∧ t.idValid = s.idValid ∧ t.warnId = s.warnId ∧
    t.adcP = s.adcP ∧ t.adcT = s.adcT ∧ t.adcH = s.adcH ∧ t.rawValid = s.rawValid ∧ t.tfValid = s.tfValid ∧
    t.tValid = s.tValid ∧ t.pValid = s.pValid ∧ t.hValid = s.hValid ∧ t.tFine = s.tFine ∧ t.tOut = s.tOut ∧
    t.pOut = s.pOut ∧ t.hOut = s.hOut ∧ t.cal = s.cal ∧ t.calValid = s.calValid) ∧
  (∀ (i : Instr) (a : Byte) (n : Nat) (s : State) (es : List Event) (left : List Scripted) (number : BitVec 16),
    (i = .chkid ∧ a = s.cfg.addrId ∧ n = 1) ∨ (i = .rdraw ∧ a = s.cfg.addrData ∧ n = 8) → s.sess = .opened →
    ((∃ c : Int, c ≠ 1 ∧ s.bus.script = .reply (.count c) :: left ∧ es = [.tWrite [a] c] ∧ number = 0) ∨
     (∃ r : Reply, (r.asBytes.getD []).length ≠ n ∧ s.bus.script = .reply (.count 1) :: .reply r :: left ∧
        es = [.tWrite [a] 1, .tRead n r.asBytes] ∧ number = 1)) →
    ∃ t, exec i s = .next t ∧
      t = { fail .ioError number (s.afterCalls left es) with rxbuf := t.rxbuf, rxv := t.rxv, draws := t.draws } ∧
      (∀ (j : Nat) (hj : j < 33), n ≤ j → t.rxbuf[j] = s.rxbuf[j]) ∧
      (∀ j < 33, t.rxv.getLsbD j = if j < n then false else s.rxv.getLsbD j))

/-! ## Unpacking -/

/-- R158 to R166: `UNPKC` writes the eighteen coefficients, each with the value its rule gives (`H4` and `H5` in the
reading `H45_SIGNED` selects), sets `CAL_VALID` and changes nothing else. -/
def Obligations.UnpkcDecodesEveryCoefficient : Prop :=
  ∀ s : State, s.sess = .opened → s.calValid = false → (∀ j < 33, s.rxv.getLsbD j = true) →
    ∃ t, exec .unpkc s = .next t ∧ t = { s with cal := t.cal, calValid := true } ∧
      t.cal.t1.toNat = s.rxbuf[0].toNat + 256 * s.rxbuf[1].toNat ∧
      t.cal.t2.toInt = s.rxbuf[2].toNat + 256 * s.rxbuf[3].toInt ∧
      t.cal.t3.toInt = s.rxbuf[4].toNat + 256 * s.rxbuf[5].toInt ∧
      t.cal.p1.toNat = s.rxbuf[6].toNat + 256 * s.rxbuf[7].toNat ∧
      t.cal.p2.toInt = s.rxbuf[8].toNat + 256 * s.rxbuf[9].toInt ∧
      t.cal.p3.toInt = s.rxbuf[10].toNat + 256 * s.rxbuf[11].toInt ∧
      t.cal.p4.toInt = s.rxbuf[12].toNat + 256 * s.rxbuf[13].toInt ∧
      t.cal.p5.toInt = s.rxbuf[14].toNat + 256 * s.rxbuf[15].toInt ∧
      t.cal.p6.toInt = s.rxbuf[16].toNat + 256 * s.rxbuf[17].toInt ∧
      t.cal.p7.toInt = s.rxbuf[18].toNat + 256 * s.rxbuf[19].toInt ∧
      t.cal.p8.toInt = s.rxbuf[20].toNat + 256 * s.rxbuf[21].toInt ∧
      t.cal.p9.toInt = s.rxbuf[22].toNat + 256 * s.rxbuf[23].toInt ∧
      t.cal.h1 = s.rxbuf[25] ∧
      t.cal.h2.toInt = s.rxbuf[26].toNat + 256 * s.rxbuf[27].toInt ∧
      t.cal.h3 = s.rxbuf[28] ∧ t.cal.h6 = s.rxbuf[32] ∧
      t.cal.h4.toInt =
        16 * (if s.cfg.h45Signed then s.rxbuf[29].toInt else (s.rxbuf[29].toNat : Int)) + (s.rxbuf[30].toNat % 16 : Nat) ∧
      t.cal.h5.toInt =
        16 * (if s.cfg.h45Signed then s.rxbuf[31].toInt else (s.rxbuf[31].toNat : Int)) + (s.rxbuf[30].toNat / 16 : Nat)

/-- R163, R164: who owns which nibble of the shared byte, in both readings of `H45_SIGNED`; the default is the unsigned
one. -/
def Obligations.PackedCoefficientsOwnTheirNibbles : Prop :=
  State.reset.cfg.h45Signed = false ∧ ∀ (signed : Bool) (r : Vector Byte 33),
    (unpackCal signed r).h4.toInt =
      16 * (if signed then r[29].toInt else (r[29].toNat : Int)) + (r[30].toNat % 16 : Nat) ∧
    (unpackCal signed r).h5.toInt =
      16 * (if signed then r[31].toInt else (r[31].toNat : Int)) + (r[30].toNat / 16 : Nat)

/-- R160: the byte at offset 24 is used by nothing. -/
def Obligations.UnusedCalibrationByteIsIgnored : Prop :=
  ∀ (signed : Bool) (r : Vector Byte 33) (x : Byte), unpackCal signed (r.set 24 x) = unpackCal signed r

/-- R167, R168, R170: `UNPKR` assembles the three counts, begins a new cycle and changes nothing else. -/
def Obligations.UnpkrAssemblesTheCounts : Prop :=
  ∀ s : State, s.sess = .opened → (∀ j < 8, s.rxv.getLsbD j = true) →
    ∃ t, exec .unpkr s = .next t ∧
      t = { s with
        adcP := t.adcP, adcT := t.adcT, adcH := t.adcH,
        rawValid := true, tfValid := false, tValid := false, pValid := false, hValid := false } ∧
      t.adcP.toNat = 4096 * s.rxbuf[0].toNat + 16 * s.rxbuf[1].toNat + s.rxbuf[2].toNat / 16 ∧
      t.adcT.toNat = 4096 * s.rxbuf[3].toNat + 16 * s.rxbuf[4].toNat + s.rxbuf[5].toNat / 16 ∧
      t.adcH.toNat = 256 * s.rxbuf[6].toNat + s.rxbuf[7].toNat

/-! ## Compensation -/

/-- R204: what `CMPT` writes, and that it writes nothing else; where the session or a valid bit it needs is missing it is
an `OrderViolation` (step `0xFFFF`). -/
def Obligations.CmptStoresCarryAndTemperature : Prop :=
  encode .cmpt = 0x40000000#32 ∧ ∀ s : State,
    (s.sess = .opened → s.calValid = true → s.rawValid = true →
      exec .cmpt s = .next { s with
        tFine := (compT s.adcT s.cal.t1 s.cal.t2 s.cal.t3).tFine, tfValid := true,
        tOut := (compT s.adcT s.cal.t1 s.cal.t2 s.cal.t3).t, tValid := true,
        ovf := s.ovf || (compT s.adcT s.cal.t1 s.cal.t2 s.cal.t3).ovf }) ∧
    (s.sess ≠ .opened ∨ s.calValid = false ∨ s.rawValid = false →
      exec .cmpt s = .next (fail .orderViolation 0xFFFF#16 s))

/-- R205: what `CMPP` writes, and that it writes nothing else; where the session or a valid bit it needs is missing it is
an `OrderViolation` (step `0xFFFF`). -/
def Obligations.CmppStoresPressure : Prop :=
  encode .cmpp = 0x41000000#32 ∧ ∀ s : State,
    (s.sess = .opened → s.calValid = true → s.rawValid = true → s.tfValid = true →
      exec .cmpp s = .next { s with
        pOut := (compP s.adcP s.tFine s.cal).p, pValid := true, pGuard := (compP s.adcP s.tFine s.cal).guard,
        ovf := s.ovf || (compP s.adcP s.tFine s.cal).ovf }) ∧
    (s.sess ≠ .opened ∨ s.calValid = false ∨ s.rawValid = false ∨ s.tfValid = false →
      exec .cmpp s = .next (fail .orderViolation 0xFFFF#16 s))

/-- R206: what `CMPH` writes, and that it writes nothing else; where the session or a valid bit it needs is missing it is
an `OrderViolation` (step `0xFFFF`). -/
def Obligations.CmphStoresHumidity : Prop :=
  encode .cmph = 0x42000000#32 ∧ ∀ s : State,
    (s.sess = .opened → s.calValid = true → s.rawValid = true → s.tfValid = true →
      exec .cmph s = .next { s with
        hOut := (compH s.adcH s.tFine s.cal).h, hValid := true,
        ovf := s.ovf || (compH s.adcH s.tFine s.cal).ovf }) ∧
    (s.sess ≠ .opened ∨ s.calValid = false ∨ s.rawValid = false ∨ s.tfValid = false →
      exec .cmph s = .next (fail .orderViolation 0xFFFF#16 s))

/-- R177 to R181 with R15, R16, R176. For every input the temperature results are the formulas in 32-bit
two's-complement arithmetic. Overflow is reported exactly when some intermediate of the formulas in unbounded integers
is no s32, and without a report the results are those of the unbounded integers. -/
def Obligations.TemperatureIsExactWithoutOverflow : Prop :=
  ∀ (adcT : BitVec 20) (t1 t2 t3 : BitVec 16),
    (∀ a b tf : BitVec 32, a = (adcT.setWidth 32 >>> 3) - (t1.setWidth 32 <<< 1) →
      b = (adcT.setWidth 32 >>> 4) - t1.setWidth 32 →
      tf = (a * t2.signExtend 32).sshiftRight 11 + ((b * b).sshiftRight 12 * t3.signExtend 32).sshiftRight 14 →
      (compT adcT t1 t2 t3).tFine = tf ∧ (compT adcT t1 t2 t3).t = (tf * 5#32 + 128#32).sshiftRight 8) ∧
    (∀ a b s tf : Int, a = (adcT.toNat : Int) / 2 ^ 3 - t1.toNat * 2 → b = (adcT.toNat : Int) / 2 ^ 4 - t1.toNat →
      s = b * b / 2 ^ 12 → tf = a * t2.toInt / 2 ^ 11 + s * t3.toInt / 2 ^ 14 →
      ((compT adcT t1 t2 t3).ovf = false ↔
        ∀ z ∈ ([(t1.toNat : Int) * 2, a, a * t2.toInt, b, b * b, s * t3.toInt, tf, tf * 5, tf * 5 + 128] : List Int),
          signedFits 32 z) ∧
      ((compT adcT t1 t2 t3).ovf = false →
        (compT adcT t1 t2 t3).tFine.toInt = tf ∧ (compT adcT t1 t2 t3).t.toInt = (tf * 5 + 128) / 2 ^ 8))

/-- R183 to R190 with R15 to R17, R176. For every input the pressure result is the chain in 64-bit two's-complement
arithmetic: 0 and the guard where the denominator term `d` is 0, else `r mod 2^32`, with a report when `r` is no u32.
Overflow is reported exactly when some intermediate evaluated in unbounded integers is no s64, or `r` no u32, and
without a report the result is that of the unbounded integers. -/
def Obligations.PressureIsExactWithoutOverflow : Prop :=
  ∀ (adcP : BitVec 20) (tFine : Word) (c : CalFile),
    (∀ v1 v2 d q r : BitVec 64, v1 = tFine.signExtend 64 - 128000#64 →
      v2 = v1 * v1 * c.p6.signExtend 64 + ((v1 * c.p5.signExtend 64) <<< 17) + (c.p4.signExtend 64 <<< 35) →
      d = (((1#64 <<< 47) + ((v1 * v1 * c.p3.signExtend 64).sshiftRight 8 + ((v1 * c.p2.signExtend 64) <<< 12))) *
        c.p1.setWidth 64).sshiftRight 33 →
      q = ((((1048576#64 - adcP.setWidth 64) <<< 31) - v2) * 3125#64).sdiv d →
      r = (q + (c.p9.signExtend 64 * q.sshiftRight 13 * q.sshiftRight 13).sshiftRight 25 +
          (c.p8.signExtend 64 * q).sshiftRight 19).sshiftRight 8 + (c.p7.signExtend 64 <<< 4) →
      (d = 0 → (compP adcP tFine c).p = 0 ∧ (compP adcP tFine c).guard = true) ∧
      (d ≠ 0 → (compP adcP tFine c).p = r.setWidth 32 ∧ (compP adcP tFine c).guard = false ∧
        (r.toInt < 0 ∨ 2 ^ 32 ≤ r.toInt → (compP adcP tFine c).ovf = true))) ∧
    (∀ v1 v2 e d p q g c1 c2 r : Int, v1 = tFine.toInt - 128000 →
      v2 = v1 * v1 * c.p6.toInt + v1 * c.p5.toInt * 2 ^ 17 + c.p4.toInt * 2 ^ 35 →
      e = v1 * v1 * c.p3.toInt / 2 ^ 8 + v1 * c.p2.toInt * 2 ^ 12 → d = (2 ^ 47 + e) * c.p1.toNat / 2 ^ 33 →
      p = 1048576 - (adcP.toNat : Int) → q = ((p * 2 ^ 31 - v2) * 3125).tdiv d → g = q / 2 ^ 13 →
      c1 = c.p9.toInt * g * g / 2 ^ 25 → c2 = c.p8.toInt * q / 2 ^ 19 →
      r = (q + c1 + c2) / 2 ^ 8 + c.p7.toInt * 2 ^ 4 →
      ((compP adcP tFine c).ovf = false ↔
        (∀ z ∈ ([v1, v1 * v1, v1 * v1 * c.p6.toInt, v1 * c.p5.toInt, v1 * c.p5.toInt * 2 ^ 17,
            v1 * v1 * c.p6.toInt + v1 * c.p5.toInt * 2 ^ 17, c.p4.toInt * 2 ^ 35, v2, v1 * v1 * c.p3.toInt,
            v1 * c.p2.toInt, v1 * c.p2.toInt * 2 ^ 12, e, 2 ^ 47, 2 ^ 47 + e, (2 ^ 47 + e) * c.p1.toNat] : List Int),
          signedFits 64 z) ∧
        (d ≠ 0 → 0 ≤ r ∧ r < 2 ^ 32 ∧
          ∀ z ∈ ([p, p * 2 ^ 31, p * 2 ^ 31 - v2, (p * 2 ^ 31 - v2) * 3125, q, c.p9.toInt * g, c.p9.toInt * g * g,
            q + c1, c.p8.toInt * q, q + c1 + c2, c.p7.toInt * 2 ^ 4, r] : List Int), signedFits 64 z)) ∧
      ((compP adcP tFine c).ovf = false →
        (d = 0 → compP adcP tFine c = ⟨0, true, false⟩) ∧
        (d ≠ 0 → (compP adcP tFine c).guard = false ∧ ((compP adcP tFine c).p.toNat : Int) = r)))

/-- R192 to R198 with R15, R16, R176. For every input the humidity result is the expression in 32-bit two's-complement
arithmetic, clamped and shifted. Overflow is reported exactly when some intermediate of the expression in unbounded
integers is no s32, and without a report the result is that of the unbounded integers. -/
def Obligations.HumidityIsExactWithoutOverflow : Prop :=
  ∀ (adcH : BitVec 16) (tFine : Word) (c : CalFile),
    (∀ v x y1 y2 y u w : BitVec 32, v = tFine - 76800#32 →
      x = ((adcH.setWidth 32 <<< 14) - (c.h4.signExtend 32 <<< 20) - c.h5.signExtend 32 * v + 16384#32).sshiftRight 15 →
      y1 = (v * c.h6.signExtend 32).sshiftRight 10 → y2 = (v * c.h3.setWidth 32).sshiftRight 11 + 32768#32 →
      y = (((y1 * y2).sshiftRight 10 + 2097152#32) * c.h2.signExtend 32 + 8192#32).sshiftRight 14 → u = x * y →
      w = u - ((u.sshiftRight 15 * u.sshiftRight 15).sshiftRight 7 * c.h1.setWidth 32).sshiftRight 4 →
      ((compH adcH tFine c).h.toNat : Int) = max 0 (min w.toInt 419430400) / 2 ^ 12) ∧
    (∀ v x y1 y2 y u s w : Int, v = tFine.toInt - 76800 →
      x = ((adcH.toNat : Int) * 2 ^ 14 - c.h4.toInt * 2 ^ 20 - c.h5.toInt * v + 16384) / 2 ^ 15 →
      y1 = v * c.h6.toInt / 2 ^ 10 → y2 = v * c.h3.toNat / 2 ^ 11 + 32768 →
      y = ((y1 * y2 / 2 ^ 10 + 2097152) * c.h2.toInt + 8192) / 2 ^ 14 → u = x * y →
      s = u / 2 ^ 15 * (u / 2 ^ 15) / 2 ^ 7 → w = u - s * c.h1.toNat / 2 ^ 4 →
      ((compH adcH tFine c).ovf = false ↔
        ∀ z ∈ ([v, (adcH.toNat : Int) * 2 ^ 14, c.h4.toInt * 2 ^ 20, (adcH.toNat : Int) * 2 ^ 14 - c.h4.toInt * 2 ^ 20,
            c.h5.toInt * v, (adcH.toNat : Int) * 2 ^ 14 - c.h4.toInt * 2 ^ 20 - c.h5.toInt * v,
            (adcH.toNat : Int) * 2 ^ 14 - c.h4.toInt * 2 ^ 20 - c.h5.toInt * v + 16384, v * c.h6.toInt, v * c.h3.toNat,
            y2, y1 * y2, y1 * y2 / 2 ^ 10 + 2097152, (y1 * y2 / 2 ^ 10 + 2097152) * c.h2.toInt,
            (y1 * y2 / 2 ^ 10 + 2097152) * c.h2.toInt + 8192, u, u / 2 ^ 15 * (u / 2 ^ 15), s * c.h1.toNat, w] : List Int),
          signedFits 32 z) ∧
      ((compH adcH tFine c).ovf = false →
        ((compH adcH tFine c).h.toNat : Int) = max 0 (min w 419430400) / 2 ^ 12))

/-- R197, R198: for every input, overflowing ones too, the humidity result is the wrapped `w` clamped to
`[0, 419430400]` and shifted right by 12, so it is between 0 and 102400. -/
def Obligations.HumidityIsAtMostAHundredPercent : Prop :=
  ∀ (adcH : BitVec 16) (tFine : Word) (c : CalFile),
    ((compH adcH tFine c).h.toNat : Int) = max 0 (min (humUnclamped adcH tFine c).val 419430400) / 2 ^ 12 ∧
    (compH adcH tFine c).h.toNat ≤ 102400

/-- R187: the guard is taken exactly when the wrapped denominator term is zero; then the result is 0. `P1 = 0` always
takes it. -/
def Obligations.PressureGuardIsTakenOnZeroDenominator : Prop :=
  ∀ (adcP : BitVec 20) (tFine : Word) (c : CalFile),
    ((compP adcP tFine c).guard = true ↔ (pressDenom (pressBase tFine) c).val = 0) ∧
    ((compP adcP tFine c).guard = true → (compP adcP tFine c).p = 0) ∧
    (c.p1 = 0 → (compP adcP tFine c).guard = true)

/-- R204, R175: a second `CMPT` with unchanged inputs changes nothing. -/
def Obligations.RepeatedTemperatureChangesNothing : Prop :=
  ∀ s t : State, exec .cmpt s = .next t → exec .cmpt t = .next t

/-- R175, R205: where both may run, `CMPP` and `CMPH` have no ordering dependency on each other: either order completes,
in the same state. `LASTCMD`, which holds the later word, is not spoken of: `exec` leaves it alone (log 19). -/
def Obligations.PressureAndHumidityCommute : Prop :=
  ∀ s : State, s.sess = .opened → s.calValid = true → s.rawValid = true → s.tfValid = true →
    ∃ a a' b, exec .cmpp s = .next a ∧ exec .cmph a = .next b ∧ exec .cmph s = .next a' ∧ exec .cmpp a' = .next b

/-! ## Read-out -/

/-- R207: the read-out division is correctly rounded: the result is normal, no normal number is nearer to the exact
quotient, and of two equally near ones it is the one with the even significand. The integer 0 gives `+0.0`. The
three outputs are that division of their integer, an s32 for the temperature and a u32 for the other two, by 100, 25600
and 1024 (R208 to R210). That the division is computed, not kept abstract, is the model's choice (log 15). -/
def Obligations.ReadoutIsCorrectlyRounded : Prop :=
  (∀ w : Word, toCelsius w = f64Div w.toInt 100 ∧ toHpa w = f64Div w.toNat 25600 ∧ toRh w = f64Div w.toNat 1024) ∧
  ∀ (z : Int) (d : Nat), z.natAbs < 2 ^ 32 → d = 100 ∨ d = 25600 ∨ d = 1024 →
    (z = 0 → f64Div z d = 0) ∧
    (z ≠ 0 → f64Normal (f64Div z d) ∧
      ∀ b : BitVec 64, f64Normal b →
        |f64Value (f64Div z d) - (z : ℚ) / d| ≤ |f64Value b - (z : ℚ) / d| ∧
        (|f64Value (f64Div z d) - (z : ℚ) / d| = |f64Value b - (z : ℚ) / d| → b ≠ f64Div z d →
          f64Significand (f64Div z d) % 2 = 0))

/-! ## Host registers -/

/-- R36: the fields of `STATUS`, for every state, with the codes of `SESS` (R21) and of `ERR` (60_exceptions.md R215). -/
def Obligations.StatusHoldsItsFields : Prop :=
  ∀ s : State, hostView 0x01 s = some (statusWord s) ∧
    (statusWord s).extractLsb' 0 2 = sessCode s.sess ∧
    (statusWord s).getLsbD 2 = s.calValid ∧ (statusWord s).getLsbD 3 = s.rawValid ∧
    (statusWord s).getLsbD 4 = s.tfValid ∧ (statusWord s).getLsbD 5 = s.tValid ∧
    (statusWord s).getLsbD 6 = s.pValid ∧ (statusWord s).getLsbD 7 = s.hValid ∧
    (statusWord s).getLsbD 8 = s.warnId ∧ (statusWord s).getLsbD 9 = s.ovf ∧
    (statusWord s).getLsbD 10 = s.pGuard ∧ (statusWord s).getLsbD 11 = s.pollTimeout ∧
    (statusWord s).getLsbD 12 = s.busHeld ∧ (statusWord s).getLsbD 13 = s.idValid ∧
    (statusWord s).extractLsb' 14 2 = 0 ∧ (statusWord s).extractLsb' 16 4 = errCodeBits s.err ∧
    (statusWord s).extractLsb' 20 12 = 0 ∧
    sessCode .closed = 0#2 ∧ sessCode .opened = 1#2 ∧ sessCode .aborted = 2#2 ∧
    errCodeBits .clear = 0#4 ∧ errCodeBits .transportError = 1#4 ∧ errCodeBits .ioError = 2#4 ∧
    errCodeBits .illegalCommand = 3#4 ∧ errCodeBits .orderViolation = 4#4

/-- R35, R37, R38, R40: the content of every register of the map (`STATUS` is the statement above; `none` is
"unspecified", where the valid bit is 0), and what a host read does: it is allowed in every state, has no effect on the
block, and returns that content (where it is unspecified, some value: the model draws a free one, log 4); an unmapped
register reads 0. The queue of host actions and the list of reads, each with the value its program expects, are the
model's choice (log 1, log 4, log 23). -/
def Obligations.HostReadReturnsTheRegister : Prop :=
  (∀ s : State,
    hostView 0x00 s = some s.lastCmd ∧
    (∃ e, hostView 0x02 s = some e ∧ e.extractLsb' 0 16 = s.errStep ∧ e.extractLsb' 16 4 = errCodeBits s.err ∧
      e.extractLsb' 20 12 = 0) ∧
    hostView 0x03 s = some s.errCmd ∧ hostView 0x04 s = some s.devSel ∧
    hostView 0x05 s = some (BitVec.ofNat 32 s.pollCnt.toNat) ∧
    hostView 0x06 s = (if s.idValid then some (BitVec.ofNat 32 s.chipId.toNat) else none) ∧
    (∃ lo hi, hostView 0x07 s = some lo ∧ hostView 0x08 s = some hi ∧ (∀ i < 32, lo.getLsbD i = s.rxv.getLsbD i) ∧
      ∀ i < 32, hi.getLsbD i = (decide (i = 0) && s.rxv.getLsbD 32)) ∧
    hostView 0x09 s = (if s.rawValid then some (BitVec.ofNat 32 s.adcP.toNat) else none) ∧
    hostView 0x0A s = (if s.rawValid then some (BitVec.ofNat 32 s.adcT.toNat) else none) ∧
    hostView 0x0B s = (if s.rawValid then some (BitVec.ofNat 32 s.adcH.toNat) else none) ∧
    hostView 0x0C s = (if s.tfValid then some s.tFine else none) ∧
    hostView 0x0D s = (if s.tValid then some s.tOut else none) ∧
    hostView 0x0E s = (if s.pValid then some s.pOut else none) ∧
    hostView 0x0F s = (if s.hValid then some s.hOut else none) ∧
    (∀ (i : Nat) (x : Int),
      [(s.cal.t1.toNat : Int), s.cal.t2.toInt, s.cal.t3.toInt, s.cal.p1.toNat, s.cal.p2.toInt, s.cal.p3.toInt,
        s.cal.p4.toInt, s.cal.p5.toInt, s.cal.p6.toInt, s.cal.p7.toInt, s.cal.p8.toInt, s.cal.p9.toInt, s.cal.h1.toNat,
        s.cal.h2.toInt, s.cal.h3.toNat, s.cal.h4.toInt, s.cal.h5.toInt, s.cal.h6.toInt][i]? = some x →
      hostView (0x10 + i) s = (if s.calValid then some (BitVec.ofInt 32 x) else none)) ∧
    hostView 0x22 s = (if s.tValid then some ((toCelsius s.tOut).extractLsb' 0 32) else none) ∧
    hostView 0x23 s = (if s.tValid then some ((toCelsius s.tOut).extractLsb' 32 32) else none) ∧
    hostView 0x24 s = (if s.pValid then some ((toHpa s.pOut).extractLsb' 0 32) else none) ∧
    hostView 0x25 s = (if s.pValid then some ((toHpa s.pOut).extractLsb' 32 32) else none) ∧
    hostView 0x26 s = (if s.hValid then some ((toRh s.hOut).extractLsb' 0 32) else none) ∧
    hostView 0x27 s = (if s.hValid then some ((toRh s.hOut).extractLsb' 32 32) else none) ∧
    (∀ (i : Nat) (hi : i < 33), hostView (0x40 + i) s =
      (if s.rxv.getLsbD i then some (BitVec.ofNat 32 s.rxbuf[i].toNat) else none))) ∧
  ∀ (s : State) (n : Nat) (expected : Option Word) (rest : List HostAction), s.hung = false →
    s.hostq = .read n expected :: rest →
    ∃ v d, step s = .next { s with hostq := rest, reads := s.reads ++ [⟨n, v, expected⟩], draws := d } ∧
      (∀ w, hostView n s = some w → v = w) ∧
      ((0x28 ≤ n ∧ n ≤ 0x3F) ∨ 0x61 ≤ n → v = 0)

/-- R39, R40: `DEVSEL` is written only while closed, `T_FINE` (with `TF_VALID`) and `RXBUFi` (with `RXV[i]`) only while
open, and every other write but one to `CMD` is ignored (host actions: log 1). -/
def Obligations.HostWriteTakesEffectOnlyWhereAllowed : Prop :=
  ∀ (s : State) (n : Nat) (v : Word) (rest : List HostAction), s.hung = false → s.hostq = .write n v :: rest → n ≠ 0 →
    step s = .next
      (if n = 0x04 ∧ s.sess = .closed then { s with hostq := rest, devSel := v }
       else if n = 0x0C ∧ s.sess = .opened then { s with hostq := rest, tFine := v, tfValid := true }
       else if 0x40 ≤ n ∧ n ≤ 0x60 ∧ s.sess = .opened then
         { s with hostq := rest, rxbuf := s.rxbuf.setIfInBounds (n - 0x40) (v.setWidth 8),
                  rxv := s.rxv ||| (1#33 <<< (n - 0x40)) }
       else { s with hostq := rest })
end

