-- ==== Sys2Proof/Laws/Decode.lean ====
section
/-! SUPPORT. The fields of a command word and the formats, as equations. -/

namespace Sys2Proof

/-! ## A word is its four fields -/

@[simp] theorem fieldOp_pack (op a n k : Byte) : fieldOp (packWord op a n k) = op := by
  unfold fieldOp packWord
  apply BitVec.eq_of_getLsbD_eq
  intro i hi
  have h1 : ¬24 + i < 8 := by omega
  have h2 : ¬24 + i - 8 < 8 := by omega
  have h3 : ¬24 + i - 8 - 8 < 8 := by omega
  have h4 : 24 + i - 8 - 8 - 8 = i := by omega
  simp only [BitVec.getLsbD_extractLsb', BitVec.getLsbD_append]
  simp [*]

@[simp] theorem fieldA_pack (op a n k : Byte) : fieldA (packWord op a n k) = a := by
  unfold fieldA packWord
  apply BitVec.eq_of_getLsbD_eq
  intro i hi
  have h1 : ¬16 + i < 8 := by omega
  have h2 : ¬16 + i - 8 < 8 := by omega
  have h3 : 16 + i - 8 - 8 < 8 := by omega
  have h4 : 16 + i - 8 - 8 = i := by omega
  simp only [BitVec.getLsbD_extractLsb', BitVec.getLsbD_append]
  simp [*]

@[simp] theorem fieldN_pack (op a n k : Byte) : fieldN (packWord op a n k) = n := by
  unfold fieldN packWord
  apply BitVec.eq_of_getLsbD_eq
  intro i hi
  have h1 : ¬8 + i < 8 := by omega
  have h2 : 8 + i - 8 = i := by omega
  simp only [BitVec.getLsbD_extractLsb', BitVec.getLsbD_append]
  simp [*]

@[simp] theorem fieldK_pack (op a n k : Byte) : fieldK (packWord op a n k) = k := by
  unfold fieldK packWord
  apply BitVec.eq_of_getLsbD_eq
  intro i hi
  simp only [BitVec.getLsbD_extractLsb', BitVec.getLsbD_append]
  simp [*]

/-- No bit of a word is outside its four fields. -/
theorem pack_fields (w : Word) : packWord (fieldOp w) (fieldA w) (fieldN w) (fieldK w) = w := by
  unfold packWord fieldOp fieldA fieldN fieldK
  apply BitVec.eq_of_getLsbD_eq
  intro i hi
  simp only [BitVec.getLsbD_extractLsb', BitVec.getLsbD_append]
  by_cases h1 : i < 8
  · simp [h1]
  · by_cases h2 : i - 8 < 8
    · simp [h1, h2]
      congr 1
      omega
    · by_cases h3 : i - 8 - 8 < 8
      · simp [h1, h2, h3]
        congr 1
        omega
      · have h4 : i - 8 - 8 - 8 < 8 := by omega
        simp [h1, h2, h3, h4]
        congr 1
        omega

/-- The decoder sees a packed word as its fields. -/
theorem decode_pack (op a n k : Byte) : decode (packWord op a n k) = decodeFields op a n k := by
  rw [decode, fieldOp_pack, fieldA_pack, fieldN_pack, fieldK_pack]

/-! ## What a format accepts -/

theorem formatZ_ok {a n k : Byte} {i j : Instr} (h : formatZ a n k i = .ok j) : a = 0 ∧ n = 0 ∧ k = 0 ∧ i = j := by
  unfold formatZ at h
  split at h
  · next hz => exact ⟨hz.1, hz.2.1, hz.2.2, Except.ok.inj h⟩
  · exact nomatch h

theorem formatW_ok {n : Byte} {i j : Instr} (h : formatW n i = .ok j) : n = 0 ∧ i = j := by
  unfold formatW at h
  split at h
  · next hz => exact ⟨hz, Except.ok.inj h⟩
  · exact nomatch h

theorem formatR_ok {n k : Byte} {i j : Instr} (h : formatR n k i = .ok j) : n = 0 ∧ k = 0 ∧ i = j := by
  unfold formatR at h
  split at h
  · next hz => exact ⟨hz.1, hz.2, Except.ok.inj h⟩
  · exact nomatch h

theorem formatB_ok {n k : Byte} {i j : Instr} (h : formatB n k i = .ok j) : brdBounds n k = true ∧ i = j := by
  unfold formatB at h
  split at h
  · next hz => exact ⟨hz, Except.ok.inj h⟩
  · exact nomatch h

end Sys2Proof
end

