-- ==== Sys2Proof/Laws/Fixed.lean ====
section
/-! SUPPORT. The wrapping arithmetic of 00_scope.md R15 to R17: results stay in range, an operation that did not report
overflow gave the exact value, when exactly it reports, and that it is two's-complement arithmetic. -/

namespace Sys2Proof.Machine

variable {N : Nat}

/-- A wrapped value is congruent to what was wrapped. -/
theorem wrapInt_emod (N : Nat) (z : Int) : wrapInt N z % 2 ^ N = z % 2 ^ N := by
  have := Int.bmod_emod (x := z) (m := 2 ^ N)
  simpa [wrapInt] using this

/-- A wrapped value is an `sN` value. -/
theorem wrapInt_range (N : Nat) (hN : 0 < N) (z : Int) :
    -(2 ^ (N - 1) : Int) ≤ wrapInt N z ∧ wrapInt N z < 2 ^ (N - 1) := by
  obtain ⟨m, rfl⟩ : ∃ m, N = m + 1 := ⟨N - 1, by omega⟩
  have h1 : ((2 ^ (m + 1) : Nat) : Int) = 2 * 2 ^ m := by push_cast; ring
  have hpos : 0 < 2 ^ (m + 1) := by positivity
  have hl := Int.le_bmod (x := z) hpos
  have hu := Int.bmod_lt (x := z) hpos
  simp only [h1] at hl hu
  simp only [wrapInt, Nat.add_sub_cancel]
  omega

/-- A value of the range is left alone. -/
theorem wrapInt_of_range (N : Nat) (hN : 0 < N) (z : Int) (h1 : -(2 ^ (N - 1) : Int) ≤ z) (h2 : z < 2 ^ (N - 1)) :
    wrapInt N z = z := by
  obtain ⟨m, rfl⟩ : ∃ m, N = m + 1 := ⟨N - 1, by omega⟩
  have hc : ((2 ^ (m + 1) : Nat) : Int) = 2 * 2 ^ m := by push_cast; ring
  simp only [Nat.add_sub_cancel] at h1 h2
  apply Int.bmod_eq_of_le <;> rw [hc] <;> omega

/-- Narrowing without a report gave the exact value, and nothing before it had reported. -/
theorem Fixed.narrow_exact {z : Int} {b : Bool} (h : (Fixed.narrow (N := N) z b).ovf = false) :
    (Fixed.narrow (N := N) z b).val = z ∧ b = false := by
  simp only [Fixed.narrow, Bool.or_eq_false_iff, decide_eq_false_iff_not, not_not] at h
  exact ⟨h.2, h.1⟩

theorem Fixed.add_exact {a b : Fixed N} (h : (a.add b).ovf = false) :
    (a.add b).val = a.val + b.val ∧ a.ovf = false ∧ b.ovf = false := by
  have := Fixed.narrow_exact h
  simp only [Bool.or_eq_false_iff] at this
  exact this

theorem Fixed.sub_exact {a b : Fixed N} (h : (a.sub b).ovf = false) :
    (a.sub b).val = a.val - b.val ∧ a.ovf = false ∧ b.ovf = false := by
  have := Fixed.narrow_exact h
  simp only [Bool.or_eq_false_iff] at this
  exact this

theorem Fixed.mul_exact {a b : Fixed N} (h : (a.mul b).ovf = false) :
    (a.mul b).val = a.val * b.val ∧ a.ovf = false ∧ b.ovf = false := by
  have := Fixed.narrow_exact h
  simp only [Bool.or_eq_false_iff] at this
  exact this

theorem Fixed.div_exact {a b : Fixed N} (h : (a.div b).ovf = false) :
    (a.div b).val = a.val.tdiv b.val ∧ a.ovf = false ∧ b.ovf = false := by
  have := Fixed.narrow_exact h
  simp only [Bool.or_eq_false_iff] at this
  exact this

theorem Fixed.shl_exact {a : Fixed N} {n : Nat} (h : (a.shl n).ovf = false) :
    (a.shl n).val = a.val * 2 ^ n ∧ a.ovf = false :=
  Fixed.narrow_exact h

@[simp] theorem Fixed.shr_val (a : Fixed N) (n : Nat) : (a.shr n).val = a.val / 2 ^ n := rfl
@[simp] theorem Fixed.shr_ovf (a : Fixed N) (n : Nat) : (a.shr n).ovf = a.ovf := rfl
@[simp] theorem Fixed.ofInt_val (z : Int) : (Fixed.ofInt z : Fixed N).val = z := rfl
@[simp] theorem Fixed.ofInt_ovf (z : Int) : (Fixed.ofInt z : Fixed N).ovf = false := rfl
@[simp] theorem Fixed.signed_val {w : Nat} (b : BitVec w) : (Fixed.signed b : Fixed N).val = b.toInt := rfl
@[simp] theorem Fixed.signed_ovf {w : Nat} (b : BitVec w) : (Fixed.signed b : Fixed N).ovf = false := rfl
@[simp] theorem Fixed.unsigned_val {w : Nat} (b : BitVec w) : (Fixed.unsigned b : Fixed N).val = (b.toNat : Int) := rfl
@[simp] theorem Fixed.unsigned_ovf {w : Nat} (b : BitVec w) : (Fixed.unsigned b : Fixed N).ovf = false := rfl

/-! ## When an overflow is reported -/

/-- `f` reports no overflow exactly under `P`, and then its value is `z`. -/
structure Fixed.Exact (f : Fixed N) (z : Int) (P : Prop) : Prop where
  ovf : f.ovf = false ↔ P
  val : P → f.val = z

/-- Wrapping leaves a number alone exactly when it is an `sN` value. -/
theorem wrapInt_eq_iff (hN : 0 < N) (z : Int) : wrapInt N z = z ↔ signedFits N z :=
  ⟨fun h => h ▸ wrapInt_range N hN z, fun h => wrapInt_of_range N hN z h.1 h.2⟩

/-- Narrowing reports unless the number fits and nothing before it reported. -/
theorem Fixed.narrow_ovf (hN : 0 < N) (z : Int) (b : Bool) :
    (Fixed.narrow (N := N) z b).ovf = false ↔ b = false ∧ signedFits N z := by
  simp [Fixed.narrow, wrapInt_eq_iff hN]

/-- Narrowing what is exact under `P`. -/
theorem Fixed.Exact.narrow (hN : 0 < N) {z' z : Int} {b : Bool} {P : Prop} (hb : b = false ↔ P) (hz : P → z' = z) :
    (Fixed.narrow (N := N) z' b).Exact z (P ∧ signedFits N z) := by
  refine ⟨?_, fun h => ?_⟩
  · rw [Fixed.narrow_ovf hN, hb]
    exact ⟨fun h => ⟨h.1, hz h.1 ▸ h.2⟩, fun h => ⟨h.1, (hz h.1).symm ▸ h.2⟩⟩
  · rw [hz h.1]
    exact (wrapInt_eq_iff hN z).mpr h.2

theorem Fixed.exact_ofInt (z : Int) : (Fixed.ofInt z : Fixed N).Exact z True := ⟨by simp, fun _ => rfl⟩
theorem Fixed.exact_signed {w : Nat} (b : BitVec w) : (Fixed.signed b : Fixed N).Exact b.toInt True :=
  ⟨by simp, fun _ => rfl⟩
theorem Fixed.exact_unsigned {w : Nat} (b : BitVec w) : (Fixed.unsigned b : Fixed N).Exact b.toNat True :=
  ⟨by simp, fun _ => rfl⟩

variable {a b : Fixed N} {x y : Int} {P Q : Prop}

theorem Fixed.Exact.both (ha : a.Exact x P) (hb : b.Exact y Q) : (a.ovf || b.ovf) = false ↔ P ∧ Q := by
  rw [Bool.or_eq_false_iff, ha.ovf, hb.ovf]

theorem Fixed.Exact.add (hN : 0 < N) (ha : a.Exact x P) (hb : b.Exact y Q) :
    (a.add b).Exact (x + y) ((P ∧ Q) ∧ signedFits N (x + y)) :=
  .narrow hN (ha.both hb) fun h => by rw [ha.val h.1, hb.val h.2]

theorem Fixed.Exact.sub (hN : 0 < N) (ha : a.Exact x P) (hb : b.Exact y Q) :
    (a.sub b).Exact (x - y) ((P ∧ Q) ∧ signedFits N (x - y)) :=
  .narrow hN (ha.both hb) fun h => by rw [ha.val h.1, hb.val h.2]

theorem Fixed.Exact.mul (hN : 0 < N) (ha : a.Exact x P) (hb : b.Exact y Q) :
    (a.mul b).Exact (x * y) ((P ∧ Q) ∧ signedFits N (x * y)) :=
  .narrow hN (ha.both hb) fun h => by rw [ha.val h.1, hb.val h.2]

theorem Fixed.Exact.div (hN : 0 < N) (ha : a.Exact x P) (hb : b.Exact y Q) :
    (a.div b).Exact (x.tdiv y) ((P ∧ Q) ∧ signedFits N (x.tdiv y)) :=
  .narrow hN (ha.both hb) fun h => by rw [ha.val h.1, hb.val h.2]

theorem Fixed.Exact.shl (hN : 0 < N) (ha : a.Exact x P) (n : Nat) :
    (a.shl n).Exact (x * 2 ^ n) (P ∧ signedFits N (x * 2 ^ n)) :=
  .narrow hN ha.ovf fun h => by rw [ha.val h]

theorem Fixed.Exact.shr (ha : a.Exact x P) (n : Nat) : (a.shr n).Exact (x / 2 ^ n) P :=
  ⟨ha.ovf, fun h => by rw [Fixed.shr_val, ha.val h]⟩

/-! ## The wrapped values are two's-complement arithmetic -/

/-- The value of `f` is that of the pattern `v`. -/
def Fixed.Holds (f : Fixed N) (v : BitVec N) : Prop := f.val = v.toInt

variable {v w : BitVec N}

theorem Fixed.holds_ofInt (hN : 0 < N) (z : Int) (hz : signedFits N z) :
    (Fixed.ofInt z : Fixed N).Holds (BitVec.ofInt N z) := by
  rw [Fixed.Holds, BitVec.toInt_ofInt]
  exact ((wrapInt_eq_iff hN z).mpr hz).symm

theorem Fixed.holds_signed {k : Nat} (hk : k ≤ N) (c : BitVec k) : (Fixed.signed c : Fixed N).Holds (c.signExtend N) :=
  (BitVec.toInt_signExtend_of_le hk).symm

theorem Fixed.holds_unsigned {k : Nat} (hk : k < N) (c : BitVec k) : (Fixed.unsigned c : Fixed N).Holds (c.setWidth N) := by
  have hc : (c.toNat : Int) < 2 ^ k := by exact_mod_cast c.isLt
  have hp : (2 : Int) ^ k ≤ 2 ^ (N - 1) := pow_le_pow_right₀ (by norm_num) (by omega)
  have hn : -(2 ^ (N - 1) : Int) ≤ (c.toNat : Int) := (neg_nonpos.mpr (by positivity)).trans (by omega)
  rw [Fixed.Holds, BitVec.toInt_setWidth]
  exact ((wrapInt_eq_iff (by omega) _).mpr ⟨hn, by omega⟩).symm

theorem Fixed.Holds.add (ha : a.Holds v) (hb : b.Holds w) : (a.add b).Holds (v + w) := by
  rw [Fixed.Holds, BitVec.toInt_add, ← ha, ← hb]; rfl

theorem Fixed.Holds.sub (ha : a.Holds v) (hb : b.Holds w) : (a.sub b).Holds (v - w) := by
  rw [Fixed.Holds, BitVec.toInt_sub, ← ha, ← hb]; rfl

theorem Fixed.Holds.mul (ha : a.Holds v) (hb : b.Holds w) : (a.mul b).Holds (v * w) := by
  rw [Fixed.Holds, BitVec.toInt_mul, ← ha, ← hb]; rfl

theorem Fixed.Holds.div (ha : a.Holds v) (hb : b.Holds w) : (a.div b).Holds (v.sdiv w) := by
  rw [Fixed.Holds, BitVec.toInt_sdiv, ← ha, ← hb]; rfl

theorem Fixed.Holds.shl (ha : a.Holds v) (n : Nat) : (a.shl n).Holds (v <<< n) := by
  rw [Fixed.Holds, BitVec.toInt_shiftLeft, Nat.shiftLeft_eq, Nat.cast_mul, ← Int.bmod_mul_bmod,
    ← BitVec.toInt_eq_toNat_bmod, ← ha, Nat.cast_pow]
  rfl

theorem Fixed.Holds.shr (ha : a.Holds v) (n : Nat) : (a.shr n).Holds (v.sshiftRight n) := by
  rw [Fixed.Holds, BitVec.toInt_sshiftRight, Int.shiftRight_eq_div_pow, ← ha]; rfl

/-- A pattern read back from its own value. -/
theorem Fixed.Holds.ofInt_val (ha : a.Holds v) : BitVec.ofInt N a.val = v := by
  rw [show a.val = v.toInt from ha, BitVec.ofInt_toInt]

/-- An `sN` value survives being stored as a pattern. -/
theorem toInt_ofInt_of_fits (hN : 0 < N) {z : Int} (hz : signedFits N z) : (BitVec.ofInt N z).toInt = z := by
  rw [BitVec.toInt_ofInt]
  exact (wrapInt_eq_iff hN z).mpr hz

/-! ## The results of the transforms -/

theorem compT_tFine (adcT : BitVec 20) (t1 t2 t3 : BitVec 16) :
    (compT adcT t1 t2 t3).tFine = BitVec.ofInt 32 (tempFine adcT t1 t2 t3).val := by simp only [compT]
theorem compT_t (adcT : BitVec 20) (t1 t2 t3 : BitVec 16) :
    (compT adcT t1 t2 t3).t = BitVec.ofInt 32 (tempCenti (tempFine adcT t1 t2 t3)).val := by simp only [compT]
theorem compT_ovf (adcT : BitVec 20) (t1 t2 t3 : BitVec 16) :
    (compT adcT t1 t2 t3).ovf = (tempCenti (tempFine adcT t1 t2 t3)).ovf := by simp only [compT]

theorem compH_h (adcH : BitVec 16) (tFine : Word) (c : CalFile) :
    (compH adcH tFine c).h = BitVec.ofInt 32 (humClamp (humUnclamped adcH tFine c).val / 2 ^ 12) := by simp only [compH]
theorem compH_ovf (adcH : BitVec 16) (tFine : Word) (c : CalFile) :
    (compH adcH tFine c).ovf = (humUnclamped adcH tFine c).ovf := by simp only [compH]

theorem pressFrom_of_zero {d : Fixed 64} (hd : d.val = 0) (adcP : BitVec 20) (v2 : Fixed 64) (c : CalFile) :
    pressFrom adcP v2 d c = ⟨0, true, v2.ovf || d.ovf⟩ := by rw [pressFrom, if_pos hd]
theorem pressFrom_of_ne {d : Fixed 64} (hd : d.val ≠ 0) (adcP : BitVec 20) (v2 : Fixed 64) (c : CalFile) :
    pressFrom adcP v2 d c = pressFinish (pressCorrect (pressQuot adcP v2 d) c) := by rw [pressFrom, if_neg hd]

theorem pressFinish_ovf (r : Fixed 64) :
    (pressFinish r).ovf = false ↔ r.ovf = false ∧ 0 ≤ r.val ∧ r.val < 2 ^ 32 := by
  simp only [pressFinish, Bool.or_eq_false_iff, decide_eq_false_iff_not, not_or, not_lt, not_le]

/-- The clamp as a minimum and a maximum. -/
theorem humClamp_eq (w : Int) : humClamp w = max 0 (min w 419430400) := by
  unfold humClamp
  split
  · omega
  · split <;> omega

/-- The clamp's range (44_compensation.md R197). -/
theorem humClamp_range (w : Int) : 0 ≤ humClamp w ∧ humClamp w ≤ 419430400 := by
  unfold humClamp
  split
  · omega
  · split <;> omega

/-- Relative humidity is at most 102400 (44_compensation.md R198). -/
theorem compH_range (adcH : BitVec 16) (tFine : Word) (c : CalFile) : (compH adcH tFine c).h.toNat ≤ 102400 := by
  have h := humClamp_range (humUnclamped adcH tFine c).val
  simp only [compH, BitVec.toNat_ofInt]
  omega

end Sys2Proof.Machine
end

