-- ==== Sys2Proof/Laws/Memory.lean ====
section
/-! SUPPORT. The laws of the reference device's memory: read after write, and every operation keeps the
canonical form. -/

namespace Sys2Proof.Machine

/-- Nothing listed lies below the lowest address the form allows. -/
theorem Memory.get_below {m : Memory} {lo a : Nat} (h : Memory.wfFrom lo m = true) (ha : a < lo) :
    Memory.get m a = Memory.unlisted := by
  induction m generalizing lo with
  | nil => rfl
  | cons c m ih =>
    obtain ⟨x, b⟩ := c
    simp only [Memory.wfFrom, Bool.and_eq_true, decide_eq_true_eq] at h
    have hx : x ≠ a := by omega
    simp only [Memory.get, hx, if_false]
    exact ih h.2 (by omega)

theorem Memory.wfFrom_mono {m : Memory} {lo lo' : Nat} (h : Memory.wfFrom lo m = true) (hle : lo' ≤ lo) :
    Memory.wfFrom lo' m = true := by
  cases m with
  | nil => rfl
  | cons c m =>
    obtain ⟨x, b⟩ := c
    simp only [Memory.wfFrom, Bool.and_eq_true, decide_eq_true_eq] at h ⊢
    exact ⟨⟨⟨by omega, h.1.1.2⟩, h.1.2⟩, h.2⟩

theorem Memory.insert_wfFrom {m : Memory} {lo a : Nat} {b : Byte} (h : Memory.wfFrom lo m = true) (hlo : lo ≤ a)
    (ha : a < 256) (hb : b ≠ Memory.unlisted) : Memory.wfFrom lo (Memory.insert m a b) = true := by
  induction m generalizing lo with
  | nil => simp [Memory.insert, Memory.wfFrom, hlo, ha, hb]
  | cons c m ih =>
    obtain ⟨x, c⟩ := c
    simp only [Memory.wfFrom, Bool.and_eq_true, decide_eq_true_eq] at h
    unfold Memory.insert
    split
    · simp [Memory.wfFrom, hlo, ha, hb, h.1.1.2, h.2]
      exact ⟨by omega, by simpa using h.1.2⟩
    · split
      · subst_vars
        simp [Memory.wfFrom, hlo, ha, hb, h.2]
      · simp only [Memory.wfFrom, Bool.and_eq_true, decide_eq_true_eq]
        exact ⟨h.1, ih h.2 (by omega)⟩

theorem Memory.erase_wfFrom {m : Memory} {lo a : Nat} (h : Memory.wfFrom lo m = true) :
    Memory.wfFrom lo (Memory.erase m a) = true := by
  induction m generalizing lo with
  | nil => rfl
  | cons c m ih =>
    obtain ⟨x, c⟩ := c
    simp only [Memory.wfFrom, Bool.and_eq_true, decide_eq_true_eq] at h
    unfold Memory.erase
    split
    · exact Memory.wfFrom_mono h.2 (by omega)
    · simp only [Memory.wfFrom, Bool.and_eq_true, decide_eq_true_eq]
      exact ⟨h.1, ih h.2⟩

/-- A write keeps the canonical form. -/
theorem Memory.set_wf {m : Memory} {a : Nat} (b : Byte) (h : m.wf = true) (ha : a < 256) :
    (Memory.set m a b).wf = true := by
  unfold Memory.set Memory.wf
  split
  · exact Memory.erase_wfFrom h
  · next hb => exact Memory.insert_wfFrom h (by omega) ha hb

theorem Memory.get_insert (m : Memory) (a x : Nat) (b : Byte) :
    Memory.get (Memory.insert m a b) x = if x = a then b else Memory.get m x := by
  induction m with
  | nil => simp only [Memory.insert, Memory.get, eq_comm]
  | cons c m ih =>
    obtain ⟨y, c⟩ := c
    unfold Memory.insert
    split
    · simp only [Memory.get]
      by_cases h : x = a
      · simp [h]
      · simp [h, Ne.symm h]
    · split
      · subst_vars
        simp only [Memory.get]
        by_cases h : x = y
        · simp [h]
        · simp [h, Ne.symm h]
      · next h1 h2 =>
        simp only [Memory.get, ih]
        by_cases h : y = x
        · have : x ≠ a := by omega
          simp [h, this]
        · simp [h]

theorem Memory.get_erase {m : Memory} {lo : Nat} (h : Memory.wfFrom lo m = true) (a x : Nat) :
    Memory.get (Memory.erase m a) x = if x = a then Memory.unlisted else Memory.get m x := by
  induction m generalizing lo with
  | nil => simp [Memory.erase, Memory.get]
  | cons c m ih =>
    obtain ⟨y, c⟩ := c
    simp only [Memory.wfFrom, Bool.and_eq_true, decide_eq_true_eq] at h
    unfold Memory.erase
    split
    · subst_vars
      simp only [Memory.get]
      by_cases hx : x = y
      · subst hx
        simpa using Memory.get_below h.2 (Nat.lt_succ_self x)
      · simp [hx, Ne.symm hx]
    · next hne =>
      simp only [Memory.get, ih h.2]
      by_cases hx : y = x
      · have : x ≠ a := by omega
        simp [hx, this]
      · simp [hx]

/-- Read after write: the written address gives the byte written, every other address what it gave before. -/
theorem Memory.get_set {m : Memory} (h : m.wf = true) (a x : Nat) (b : Byte) :
    Memory.get (Memory.set m a b) x = if x = a then b else Memory.get m x := by
  unfold Memory.set
  split
  · next hb => rw [Memory.get_erase h, hb]
  · exact Memory.get_insert m a x b

end Sys2Proof.Machine
end

