-- ==== Sys2Proof/Laws/State.lean ====
section
/-! SUPPORT. What each named update of the state writes, field by field: true by rfl, for simp. Only the fields an
update writes, and the ones later proofs ask about, are listed one by one; the rest is said once by an equation
of the whole state. -/

namespace Sys2Proof.Machine

/-! ## `recordEvent` -/

@[simp] theorem recordEvent_history (e : Event) (s : State) :
    (recordEvent e s).bus.history = s.bus.history ++ [e] := rfl
@[simp] theorem recordEvent_script (e : Event) (s : State) : (recordEvent e s).bus.script = s.bus.script := rfl
@[simp] theorem recordEvent_device (e : Event) (s : State) : (recordEvent e s).bus.device = s.bus.device := rfl
@[simp] theorem recordEvent_draws (e : Event) (s : State) : (recordEvent e s).draws = s.draws := rfl

/-- `recordEvent` writes the history and nothing else. -/
theorem recordEvent_frame (e : Event) (s : State) : recordEvent e s = { s with bus := (recordEvent e s).bus } := rfl

/-! ## `putBytes`, `dropBytes` -/

@[simp] theorem putBytes_rxbuf (k : Nat) (bs : List Byte) (s : State) :
    (putBytes k bs s).rxbuf = writeBytes k bs s.rxbuf := rfl
@[simp] theorem putBytes_rxv (k : Nat) (bs : List Byte) (s : State) :
    (putBytes k bs s).rxv = s.rxv ||| rangeMask k bs.length := rfl

/-- `putBytes` writes the receive buffer and its valid bits and nothing else. -/
theorem putBytes_frame (k : Nat) (bs : List Byte) (s : State) :
    putBytes k bs s = { s with rxbuf := (putBytes k bs s).rxbuf, rxv := (putBytes k bs s).rxv } := rfl

@[simp] theorem dropBytes_rxbuf (k n : Nat) (s : State) :
    (dropBytes k n s).rxbuf = writeBytes k (freeBytes s.draws n) s.rxbuf := rfl
@[simp] theorem dropBytes_rxv (k n : Nat) (s : State) : (dropBytes k n s).rxv = s.rxv &&& ~~~rangeMask k n := rfl
@[simp] theorem dropBytes_draws (k n : Nat) (s : State) : (dropBytes k n s).draws = s.draws + n := rfl

/-- `dropBytes` writes the receive buffer, its valid bits and the count of draws, and nothing else. -/
theorem dropBytes_frame (k n : Nat) (s : State) :
    dropBytes k n s = { s with
      rxbuf := (dropBytes k n s).rxbuf, rxv := (dropBytes k n s).rxv, draws := (dropBytes k n s).draws } := rfl

/-! ## `clearSession` -/

@[simp] theorem clearSession_calValid (s : State) : (clearSession s).calValid = false := rfl
@[simp] theorem clearSession_rawValid (s : State) : (clearSession s).rawValid = false := rfl
@[simp] theorem clearSession_tfValid (s : State) : (clearSession s).tfValid = false := rfl
@[simp] theorem clearSession_tValid (s : State) : (clearSession s).tValid = false := rfl
@[simp] theorem clearSession_pValid (s : State) : (clearSession s).pValid = false := rfl
@[simp] theorem clearSession_hValid (s : State) : (clearSession s).hValid = false := rfl
@[simp] theorem clearSession_idValid (s : State) : (clearSession s).idValid = false := rfl
@[simp] theorem clearSession_warnId (s : State) : (clearSession s).warnId = false := rfl
@[simp] theorem clearSession_ovf (s : State) : (clearSession s).ovf = false := rfl
@[simp] theorem clearSession_pGuard (s : State) : (clearSession s).pGuard = false := rfl
@[simp] theorem clearSession_pollTimeout (s : State) : (clearSession s).pollTimeout = false := rfl
@[simp] theorem clearSession_rxv (s : State) : (clearSession s).rxv = 0 := rfl
@[simp] theorem clearSession_pollCnt (s : State) : (clearSession s).pollCnt = 0 := rfl
@[simp] theorem clearSession_sess (s : State) : (clearSession s).sess = s.sess := rfl
@[simp] theorem clearSession_busHeld (s : State) : (clearSession s).busHeld = s.busHeld := rfl
@[simp] theorem clearSession_err (s : State) : (clearSession s).err = s.err := rfl
@[simp] theorem clearSession_errCmd (s : State) : (clearSession s).errCmd = s.errCmd := rfl
@[simp] theorem clearSession_errStep (s : State) : (clearSession s).errStep = s.errStep := rfl
@[simp] theorem clearSession_lastCmd (s : State) : (clearSession s).lastCmd = s.lastCmd := rfl
@[simp] theorem clearSession_devSel (s : State) : (clearSession s).devSel = s.devSel := rfl
@[simp] theorem clearSession_cfg (s : State) : (clearSession s).cfg = s.cfg := rfl
@[simp] theorem clearSession_hostq (s : State) : (clearSession s).hostq = s.hostq := rfl
@[simp] theorem clearSession_reads (s : State) : (clearSession s).reads = s.reads := rfl
@[simp] theorem clearSession_bus (s : State) : (clearSession s).bus = s.bus := rfl
@[simp] theorem clearSession_hung (s : State) : (clearSession s).hung = s.hung := rfl

/-! ## `loadCal`, `newCycle`, `raiseOvf` -/

@[simp] theorem newCycle_rawValid (s : State) : (newCycle s).rawValid = true := rfl
@[simp] theorem newCycle_tfValid (s : State) : (newCycle s).tfValid = false := rfl
@[simp] theorem newCycle_tValid (s : State) : (newCycle s).tValid = false := rfl
@[simp] theorem newCycle_pValid (s : State) : (newCycle s).pValid = false := rfl
@[simp] theorem newCycle_hValid (s : State) : (newCycle s).hValid = false := rfl

/-- `newCycle` writes five valid bits and nothing else. -/
theorem newCycle_frame (s : State) :
    newCycle s = { s with rawValid := true, tfValid := false, tValid := false, pValid := false, hValid := false } := rfl

@[simp] theorem raiseOvf_ovf (b : Bool) (s : State) : (raiseOvf b s).ovf = (s.ovf || b) := rfl

/-- `raiseOvf` writes `OVF` and nothing else. -/
theorem raiseOvf_frame (b : Bool) (s : State) : raiseOvf b s = { s with ovf := s.ovf || b } := rfl

end Sys2Proof.Machine
end

