-- ==== Sys2Proof/Laws/Run.lean ====
section
/-! SUPPORT. How a stretch of pseudocode can end, said once for every shared operation: the transport calls, the two
micro-operations and the burst into the receive buffer. -/

namespace Sys2Proof.Machine

variable {α β : Type}

/-- The end of a stretch of pseudocode meets a condition for each of its three forms. -/
def Run.Post (r : Run α) (done : α → State → Prop) (raised : ErrCode → Nat → State → Prop) (hung : State → Prop) : Prop :=
  match r with
  | .ok a s => done a s
  | .raised e n s => raised e n s
  | .hung s => hung s

@[simp] theorem Run.post_ok (a : α) (s : State) (p : α → State → Prop) (q : ErrCode → Nat → State → Prop)
    (h : State → Prop) : (Run.ok a s).Post p q h = p a s := rfl
@[simp] theorem Run.post_raised (e : ErrCode) (n : Nat) (s : State) (p : α → State → Prop)
    (q : ErrCode → Nat → State → Prop) (h : State → Prop) : (Run.raised e n s).Post p q h = q e n s := rfl
@[simp] theorem Run.post_hung (s : State) (p : α → State → Prop) (q : ErrCode → Nat → State → Prop)
    (h : State → Prop) : (Run.hung (α := α) s).Post p q h = h s := rfl

@[simp] theorem Run.ok_bind (a : α) (s : State) (f : α → State → Run β) : (Run.ok a s).bind f = f a s := rfl
@[simp] theorem Run.raised_bind (e : ErrCode) (n : Nat) (s : State) (f : α → State → Run β) :
    (Run.raised e n s).bind f = .raised e n s := rfl
@[simp] theorem Run.hung_bind (s : State) (f : α → State → Run β) : (Run.hung s).bind f = .hung s := rfl

/-- Sequencing: the second stretch starts where the first is done. -/
theorem Run.post_bind (r : Run α) (f : α → State → Run β) (p : β → State → Prop) (q : ErrCode → Nat → State → Prop)
    (h : State → Prop) : (r.bind f).Post p q h ↔ r.Post (fun a s => (f a s).Post p q h) q h := by
  cases r <;> rfl

/-- A weaker condition. -/
theorem Run.Post.mono {r : Run α} {p p' : α → State → Prop} {q q' : ErrCode → Nat → State → Prop}
    {h h' : State → Prop} (hr : r.Post p q h) (hp : ∀ a s, p a s → p' a s) (hq : ∀ e n s, q e n s → q' e n s)
    (hh : ∀ s, h s → h' s) : r.Post p' q' h' := by
  cases r with
  | ok a s => exact hp a s hr
  | raised e n s => exact hq e n s hr
  | hung s => exact hh s hr

/-! ## Transport calls change the transport and nothing else -/

/-- `t` is `s` but for the transport and the count of free values. -/
def BusOnly (s t : State) : Prop := t = { s with bus := t.bus, draws := t.draws }

theorem BusOnly.refl (s : State) : BusOnly s s := rfl

theorem BusOnly.trans {s t u : State} (h : BusOnly s t) (h' : BusOnly t u) : BusOnly s u := by
  unfold BusOnly at *
  rw [h'] at *
  rw [h]

/-- The reference device, if attached, keeps its memory in canonical form. -/
def KeepsDevice (s t : State) : Prop :=
  (∀ d, s.bus.device = some d → d.reg.wf = true) → ∀ d, t.bus.device = some d → d.reg.wf = true

/-- Everything one answered call can do: the transport alone changes, the script moves on by one entry, and the call
is recorded with its answer. -/
theorem ask_post (ofReply : Reply → α) (dev : RefDevice → α × RefDevice) (free : Nat → α) (event : α → Event)
    (hdev : ∀ d : RefDevice, d.reg.wf = true → (dev d).2.reg.wf = true) (s : State) :
    (ask ofReply dev free event s).Post
      (fun a t => BusOnly s t ∧ t.bus.history = s.bus.history ++ [event a] ∧ t.bus.script = s.bus.script.tail ∧
        KeepsDevice s t ∧ s.bus.script.head? ≠ some .never)
      (fun _ _ _ => False)
      (fun t => BusOnly s t ∧ t.bus.history = s.bus.history ∧ t.bus.script = s.bus.script.tail ∧ KeepsDevice s t ∧
        s.bus.script.head? = some .never) := by
  unfold ask
  split
  all_goals
    try unfold askDevice
    try split
    all_goals simp_all [BusOnly, KeepsDevice, recordEvent]

theorem busOpen_post (s : State) :
    (busOpen s).Post
      (fun a t => BusOnly s t ∧ t.bus.history = s.bus.history ++ [.busOpen s.devSel a] ∧
        t.bus.script = s.bus.script.tail ∧ KeepsDevice s t ∧ s.bus.script.head? ≠ some .never)
      (fun _ _ _ => False)
      (fun t => BusOnly s t ∧ t.bus.history = s.bus.history ∧ t.bus.script = s.bus.script.tail ∧ KeepsDevice s t ∧
        s.bus.script.head? = some .never) :=
  ask_post _ _ _ _ (fun _ h => h) s

theorem addrSelect_post (s : State) :
    (addrSelect s).Post
      (fun a t => BusOnly s t ∧ t.bus.history = s.bus.history ++ [.addrSelect s.devSel a] ∧
        t.bus.script = s.bus.script.tail ∧ KeepsDevice s t ∧ s.bus.script.head? ≠ some .never)
      (fun _ _ _ => False)
      (fun t => BusOnly s t ∧ t.bus.history = s.bus.history ∧ t.bus.script = s.bus.script.tail ∧ KeepsDevice s t ∧
        s.bus.script.head? = some .never) :=
  ask_post _ _ _ _ (fun _ h => h) s

theorem deviceWrite_wf (a : Byte) (v : Option Byte) (d : RefDevice) (h : d.reg.wf = true) :
    (deviceWrite a v d).2.reg.wf = true := by
  cases v with
  | none => exact h
  | some b => exact Memory.set_wf b h a.isLt

theorem tWrite_post (a : Byte) (v : Option Byte) (s : State) :
    (tWrite a v s).Post
      (fun c t => BusOnly s t ∧ t.bus.history = s.bus.history ++ [.tWrite (writeTransfer a v) c] ∧
        t.bus.script = s.bus.script.tail ∧ KeepsDevice s t ∧ s.bus.script.head? ≠ some .never)
      (fun _ _ _ => False)
      (fun t => BusOnly s t ∧ t.bus.history = s.bus.history ∧ t.bus.script = s.bus.script.tail ∧ KeepsDevice s t ∧
        s.bus.script.head? = some .never) :=
  ask_post _ _ _ _ (deviceWrite_wf a v) s

theorem tRead_post (n : Nat) (s : State) :
    (tRead n s).Post
      (fun r t => BusOnly s t ∧ t.bus.history = s.bus.history ++ [.tRead n r] ∧
        t.bus.script = s.bus.script.tail ∧ KeepsDevice s t ∧ s.bus.script.head? ≠ some .never)
      (fun _ _ _ => False)
      (fun t => BusOnly s t ∧ t.bus.history = s.bus.history ∧ t.bus.script = s.bus.script.tail ∧ KeepsDevice s t ∧
        s.bus.script.head? = some .never) :=
  ask_post _ _ _ _ (fun _ h => h) s

/-! ## The micro-operations -/

/-- Everything `DevWrite1` can do (20_memory.md R65): one call, and `IOError` at its number when the count is not 2. -/
theorem devWrite1_post (step : Nat) (a v : Byte) (s : State) :
    (devWrite1 step a v s).Post
      (fun _ t => BusOnly s t ∧ t.bus.history = s.bus.history ++ [.tWrite [a, v] 2] ∧ KeepsDevice s t ∧
        t.bus.script = s.bus.script.tail)
      (fun e n t => e = .ioError ∧ n = step ∧ BusOnly s t ∧ KeepsDevice s t ∧ t.bus.script = s.bus.script.tail ∧
        ∃ c : Int, c ≠ 2 ∧ t.bus.history = s.bus.history ++ [.tWrite [a, v] c])
      (fun t => BusOnly s t ∧ t.bus.history = s.bus.history ∧ KeepsDevice s t ∧
        s.bus.script.head? = some .never) := by
  rw [devWrite1, Run.post_bind]
  refine (tWrite_post a (some v) s).mono ?_ (fun _ _ _ h => h.elim) (fun t h => ⟨h.1, h.2.1, h.2.2.2.1, h.2.2.2.2⟩)
  rintro c t ⟨hb, hh, hs, hd, -⟩
  by_cases hc : c = 2
  · subst hc
    exact ⟨hb, hh, hd, hs⟩
  · rw [if_neg hc]
    exact ⟨rfl, rfl, hb, hd, hs, c, hc, hh⟩

/-- `t` comes from `s` by transport calls alone, which are the events `es`. -/
def CallsOnly (es : List Event) (s t : State) : Prop :=
  BusOnly s t ∧ t.bus.history = s.bus.history ++ es ∧ KeepsDevice s t

theorem CallsOnly.trans {es es' : List Event} {s t u : State} (h : CallsOnly es s t) (h' : CallsOnly es' t u) :
    CallsOnly (es ++ es') s u :=
  ⟨h.1.trans h'.1, by rw [h'.2.1, h.2.1, List.append_assoc], fun hd => h'.2.2 (h.2.2 hd)⟩

/-- Everything `DevBurst` can do (20_memory.md R66): the bytes, exactly as many as asked for; or `IOError` at the
address write, the read not attempted; or `IOError` at the read. -/
theorem devBurst_post (step : Nat) (a : Byte) (n : Nat) (s : State) :
    (devBurst step a n s).Post
      (fun bs t => bs.length = n ∧ ∃ r : Option (List Byte), r.getD [] = bs ∧
        CallsOnly [.tWrite [a] 1, .tRead n r] s t)
      (fun e m t => e = .ioError ∧
        ((m = step ∧ ∃ c : Int, c ≠ 1 ∧ CallsOnly [.tWrite [a] c] s t) ∨
          (m = step + 1 ∧ ∃ r : Option (List Byte), (r.getD []).length ≠ n ∧
            CallsOnly [.tWrite [a] 1, .tRead n r] s t)))
      (fun t => Scripted.never ∈ s.bus.script ∧ (CallsOnly [] s t ∨ CallsOnly [.tWrite [a] 1] s t)) := by
  rw [devBurst, Run.post_bind]
  refine (tWrite_post a none s).mono ?_ (fun _ _ _ h => h.elim) ?_
  · rintro c t ⟨hb, hh, hs, hd, -⟩
    by_cases hc : c = 1
    · subst hc
      have ht : CallsOnly [.tWrite [a] 1] s t := ⟨hb, hh, hd⟩
      rw [if_pos rfl, Run.post_bind]
      refine (tRead_post n t).mono ?_ (fun _ _ _ h => h.elim) ?_
      · rintro r u ⟨hb', hh', -, hd', -⟩
        have hu : CallsOnly [.tWrite [a] 1, .tRead n r] s u := ht.trans ⟨hb', hh', hd'⟩
        by_cases hn : (r.getD []).length = n
        · rw [if_pos hn]
          exact ⟨hn, r, rfl, hu⟩
        · rw [if_neg hn]
          exact ⟨rfl, .inr ⟨rfl, r, hn, hu⟩⟩
      · rintro u ⟨hb', hh', -, hd', hnv⟩
        refine ⟨?_, .inr (ht.trans (es' := []) ⟨hb', by rw [hh', List.append_nil], hd'⟩)⟩
        rw [hs] at hnv
        exact List.mem_of_mem_tail (List.mem_of_mem_head? hnv)
    · rw [if_neg hc]
      exact ⟨rfl, .inl ⟨rfl, c, hc, hb, hh, hd⟩⟩
  · rintro t ⟨hb, hh, -, hd, hnv⟩
    exact ⟨List.mem_of_mem_head? hnv, .inl ⟨hb, by rw [hh, List.append_nil], hd⟩⟩

/-- Everything a burst into the receive buffer can do (10_state.md R32). -/
theorem burstInto_post (step : Nat) (a : Byte) (n k : Nat) (s : State) :
    (burstInto step a n k s).Post
      (fun bs t => bs.length = n ∧ ∃ (r : Option (List Byte)) (u : State), r.getD [] = bs ∧
        CallsOnly [.tWrite [a] 1, .tRead n r] s u ∧ t = putBytes k bs u)
      (fun e m t => e = .ioError ∧ ∃ u : State, t = dropBytes k n u ∧
        ((m = step ∧ ∃ c : Int, c ≠ 1 ∧ CallsOnly [.tWrite [a] c] s u) ∨
          (m = step + 1 ∧ ∃ r : Option (List Byte), (r.getD []).length ≠ n ∧
            CallsOnly [.tWrite [a] 1, .tRead n r] s u)))
      (fun t => Scripted.never ∈ s.bus.script ∧ (CallsOnly [] s t ∨ CallsOnly [.tWrite [a] 1] s t)) := by
  have h := devBurst_post step a n s
  unfold burstInto
  cases hr : devBurst step a n s with
  | ok bs t =>
    rw [hr] at h
    obtain ⟨hl, r, hbs, hc⟩ := h
    exact ⟨hl, r, t, hbs, hc, rfl⟩
  | raised e m t =>
    rw [hr] at h
    exact ⟨h.1, t, rfl, h.2⟩
  | hung t =>
    rw [hr] at h
    exact h

end Sys2Proof.Machine
end

