-- ==== Sys2Proof/Laws/RxBuf.lean ====
section
/-! SUPPORT. The receive buffer: which bytes a burst writes and which valid bits it sets or clears. -/

namespace Sys2Proof.Machine

/-- Each byte of the list lands at its offset; every other byte of the buffer is kept. -/
theorem writeBytes_getElem (k : Nat) (bs : List Byte) (v : Vector Byte 33) (j : Nat) (hj : j < 33) :
    (writeBytes k bs v)[j] = if h : k ≤ j ∧ j < k + bs.length then bs[j - k]'(by omega) else v[j] := by
  induction bs generalizing k v with
  | nil =>
    have : ¬(k ≤ j ∧ j < k + ([] : List Byte).length) := by simp
    rw [dif_neg this, writeBytes]
  | cons b bs ih =>
    rw [writeBytes, ih]
    by_cases h0 : j = k
    · subst h0
      have h1 : ¬(j + 1 ≤ j ∧ j < j + 1 + bs.length) := by omega
      have h2 : j ≤ j ∧ j < j + (b :: bs).length := by simp
      rw [dif_neg h1, dif_pos h2]
      simp
    · by_cases h1 : k + 1 ≤ j ∧ j < k + 1 + bs.length
      · have h2 : k ≤ j ∧ j < k + (b :: bs).length := by simp; omega
        rw [dif_pos h1, dif_pos h2]
        have : j - k = (j - (k + 1)) + 1 := by omega
        simp [this]
      · have h2 : ¬(k ≤ j ∧ j < k + (b :: bs).length) := by simp; omega
        rw [dif_neg h1, dif_neg h2]
        simp [Ne.symm h0]

/-- Bit `i` of the mask is set exactly for `k ≤ i < k + n`. -/
theorem getLsbD_rangeMask (k n i : Nat) :
    (rangeMask k n).getLsbD i = (decide (i < 33) && decide (k ≤ i) && decide (i < k + n)) := by
  simp only [rangeMask, BitVec.getLsbD_ofNat, Nat.testBit_shiftLeft, Nat.testBit_two_pow_sub_one]
  by_cases h : k ≤ i
  · have : (i - k < n) = (i < k + n) := by simp; omega
    simp [h, this]
  · simp [h]

/-- A burst that succeeds makes its bytes valid and leaves the other valid bits alone (10_state.md R32). -/
theorem getLsbD_putMask (x : BitVec 33) (k n i : Nat) (hi : i < 33) :
    (x ||| rangeMask k n).getLsbD i = if k ≤ i ∧ i < k + n then true else x.getLsbD i := by
  rw [BitVec.getLsbD_or, getLsbD_rangeMask]
  by_cases h : k ≤ i ∧ i < k + n
  · simp [h, hi]
  · rw [if_neg h]
    by_cases h1 : k ≤ i
    · have : ¬ i < k + n := fun h2 => h ⟨h1, h2⟩
      simp [this]
    · simp [h1]

/-- A burst that fails makes its bytes invalid and leaves the other valid bits alone (10_state.md R32). -/
theorem getLsbD_dropMask (x : BitVec 33) (k n i : Nat) (hi : i < 33) :
    (x &&& ~~~rangeMask k n).getLsbD i = if k ≤ i ∧ i < k + n then false else x.getLsbD i := by
  rw [BitVec.getLsbD_and, BitVec.getLsbD_not, getLsbD_rangeMask]
  by_cases h : k ≤ i ∧ i < k + n
  · simp [h, hi]
  · rw [if_neg h]
    by_cases h1 : k ≤ i
    · have : ¬ i < k + n := fun h2 => h ⟨h1, h2⟩
      simp [this, hi]
    · simp [h1, hi]

/-- `rxvCovers` says that the first `n` valid bits are set. -/
theorem rxvCovers_iff (x : BitVec 33) (n : Nat) (hn : n ≤ 33) :
    rxvCovers x n = true ↔ ∀ i, i < n → x.getLsbD i = true := by
  rw [rxvCovers, decide_eq_true_iff]
  constructor
  · intro h i hi
    have hb := congrArg (fun y => y.getLsbD i) h
    simp only [BitVec.getLsbD_and, getLsbD_rangeMask] at hb
    have h33 : i < 33 := by omega
    simpa [h33, hi] using hb
  · intro h
    refine BitVec.eq_of_getLsbD_eq fun i hi => ?_
    simp only [BitVec.getLsbD_and, getLsbD_rangeMask]
    by_cases hin : i < n
    · simp [h i hin]
    · simp [hin]

@[simp] theorem freeBytes_length (d n : Nat) : (freeBytes d n).length = n := by simp [freeBytes]

end Sys2Proof.Machine
end

