-- ==== Sys2Proof/Laws/Exec.lean ====
section
/-! SUPPORT. What a command and a step can do, said once: every command is its body in the frame of
40_session.md R110, and every step is one host action. -/

namespace Sys2Proof.Machine

/-- The pseudocode of each command. -/
def bodyOf (i : Instr) : State → Run Unit :=
  match i with
  | .nop => fun s => .ok () s
  | .openSession => openBody
  | .closeSession => fun s => .ok () (endSession s)
  | .wr1 a v => devWrite1 0 a v
  | .rd1 a => brdBody a 1 0
  | .brd a n k => brdBody a n.toNat k.toNat
  | .chkid => chkidBody
  | .ldcal => ldcalBody
  | .cfg => cfgBody
  | .poll => pollBody
  | .rdraw => rdrawBody
  | .unpkc => fun s => .ok () (loadCal s)
  | .unpkr => fun s => .ok () (loadRaw s)
  | .cmpt => fun s => .ok () (storeTemp (compT s.adcT s.cal.t1 s.cal.t2 s.cal.t3) s)
  | .cmpp => fun s => .ok () (storePress (compP s.adcP s.tFine s.cal) s)
  | .cmph => fun s => .ok () (storeHum (compH s.adcH s.tFine s.cal) s)

theorem exec_eq_command (i : Instr) (s : State) : exec i s = command i (bodyOf i) s := by
  cases i <;> rfl

/-- Every command ends in a next state: refused by `Fail`, or its body settled. -/
theorem exec_cases (i : Instr) (s : State) :
    ((sessionAllows i s.sess && dataPrecondition i s) = false ∧ exec i s = .next (fail .orderViolation refusedStep s)) ∨
    (sessionAllows i s.sess = true ∧ dataPrecondition i s = true ∧ exec i s = .next (settle (bodyOf i s))) := by
  rw [exec_eq_command, command]
  cases h1 : sessionAllows i s.sess <;> cases h2 : dataPrecondition i s <;> simp

/-- A command that the session state and the data allow is its body, settled. -/
theorem exec_of_allowed {i : Instr} {s : State} (h1 : sessionAllows i s.sess = true) (h2 : dataPrecondition i s = true) :
    exec i s = .next (settle (bodyOf i s)) := by
  rw [exec_eq_command, command, h1, h2, if_pos rfl, if_pos rfl]

/-- The error procedure as one update (60_exceptions.md R222). -/
theorem fail_eq (e : ErrCode) (n : BitVec 16) (s : State) :
    fail e n s = { s with
      err := if s.err = .clear then e else s.err
      errCmd := if s.err = .clear then s.lastCmd else s.errCmd
      errStep := if s.err = .clear then n else s.errStep
      sess := if s.sess = .opened then .aborted else s.sess } := by
  unfold fail abortSession recordError
  by_cases h : s.err = .clear
  · by_cases h' : s.sess = .opened <;> simp [h, h']
  · by_cases h' : s.sess = .opened <;> simp [h, h']

/-- What is true of the state at each end of a body is true, after `Fail` or the stop, of the settled state. -/
theorem settle_of_post {r : Run Unit} {p : State → Prop} {q : ErrCode → Nat → State → Prop} {h : State → Prop}
    (hr : r.Post (fun _ s => p s) q h) {g : State → Prop} (hp : ∀ s, p s → g s)
    (hq : ∀ e n s, q e n s → g (fail e (callNumber n) s)) (hh : ∀ s, h s → g { s with hung := true }) : g (settle r) := by
  cases r with
  | ok a s => exact hp s hr
  | raised e n s => exact hq e n s hr
  | hung s => exact hh s hr

/-- A host register write as one update. -/
theorem hostWrite_cases (n : Nat) (v : Word) (s : State) :
    hostWrite n v s = s ∨ (s.sess = .closed ∧ hostWrite n v s = { s with devSel := v }) ∨
    (s.sess = .opened ∧ hostWrite n v s = { s with tFine := v, tfValid := true }) ∨
    (s.sess = .opened ∧ hostWrite n v s = putBytes (n - 0x40) [v.setWidth 8] s) := by
  unfold hostWrite
  split
  · split <;> simp_all
  · split
    · split <;> simp_all
    · split
      · split <;> simp_all
      · simp

/-- A host read as one update. -/
theorem hostRead_eq (n : Nat) (e : Option Word) (s : State) :
    ∃ v d, hostRead n e s = { s with reads := s.reads ++ [⟨n, v, e⟩], draws := d } ∧
      ∀ w, hostView n s = some w → v = w := by
  unfold hostRead
  cases h : hostView n s with
  | some w => exact ⟨w, s.draws, rfl, fun _ hw => Option.some.inj hw⟩
  | none => exact ⟨Config.freeWord s.draws, s.draws + 1, rfl, fun _ hw => nomatch hw⟩

/-- A step takes the host's next action. -/
theorem step_of_action {s : State} {a : HostAction} {rest : List HostAction} (hh : s.hung = false)
    (hq : s.hostq = a :: rest) : step s = hostAct a { s with hostq := rest } := by
  unfold step hostStep
  rw [if_neg (by simp [hh]), hq]

/-- Everything a command word can do: `IllegalCommand`, or its command after `LASTCMD <- w` (40_session.md R110). -/
theorem execWord_cases {w : Word} {s t : State} (h : execWord w s = .next t) :
    (∃ e, decode w = .error e ∧ t = fail .illegalCommand refusedStep { s with lastCmd := w }) ∨
    (∃ i, decode w = .ok i ∧ exec i { s with lastCmd := w } = .next t) := by
  unfold execWord at h
  split at h
  · next e he => exact .inl ⟨e, he, (Host.Outcome.next.inj h).symm⟩
  · next i hi => exact .inr ⟨i, hi, h⟩

/-- A step that issues a word executes it, with the action taken off the queue. -/
theorem step_of_issuesWord {s : State} {w : Word} {rest : List HostAction} (hh : s.hung = false)
    (h : s.issuesWord w rest) : step s = execWord w { s with hostq := rest } := by
  obtain hq | ⟨hq, ha⟩ := h
  · rw [step_of_action hh hq]
    rfl
  · rw [step_of_action hh hq]
    exact if_neg ha

/-- Everything a step can do, when the machine is not stuck: be idle, or take the host's next action. -/
theorem step_cases {s t : State} (h : step s = .next t) :
    s.hung = false ∧
    ((s.hostq = [] ∧ t = s) ∨
     (∃ w rest, s.issuesWord w rest ∧
        ((∃ e, decode w = .error e ∧ t = fail .illegalCommand refusedStep { s with hostq := rest, lastCmd := w }) ∨
         (∃ i, decode w = .ok i ∧ exec i { s with hostq := rest, lastCmd := w } = .next t))) ∨
     (∃ w rest, s.hostq = .follow w :: rest ∧ s.sess = .aborted ∧ t = { s with hostq := rest }) ∨
     (∃ n v rest, n ≠ 0 ∧ s.hostq = .write n v :: rest ∧ t = hostWrite n v { s with hostq := rest }) ∨
     (∃ n e rest, s.hostq = .read n e :: rest ∧ t = hostRead n e { s with hostq := rest }) ∨
     (∃ rest, s.hostq = .reset :: rest ∧ t = blockReset { s with hostq := rest })) := by
  unfold step at h
  by_cases hh : s.hung = true
  · rw [if_pos hh] at h
    exact nomatch h
  · rw [if_neg hh] at h
    refine ⟨by simpa using hh, ?_⟩
    unfold hostStep at h
    cases hq : s.hostq with
    | nil =>
      rw [hq] at h
      exact .inl ⟨rfl, (Host.Outcome.next.inj h).symm⟩
    | cons a rest =>
      rw [hq] at h
      right
      cases a with
      | write n v =>
        simp only [hostAct] at h
        split at h
        · subst_vars
          exact .inl ⟨v, rest, .inl hq, execWord_cases h⟩
        · next hn => exact .inr (.inr (.inl ⟨n, v, rest, hn, rfl, (Host.Outcome.next.inj h).symm⟩))
      | follow w =>
        simp only [hostAct] at h
        split at h
        · next ha => exact .inr (.inl ⟨w, rest, rfl, ha, (Host.Outcome.next.inj h).symm⟩)
        · next ha => exact .inl ⟨w, rest, .inr ⟨hq, ha⟩, execWord_cases h⟩
      | read n e => exact .inr (.inr (.inr (.inl ⟨n, e, rest, rfl, (Host.Outcome.next.inj h).symm⟩)))
      | reset => exact .inr (.inr (.inr (.inr ⟨rest, rfl, (Host.Outcome.next.inj h).symm⟩)))

end Sys2Proof.Machine
end

