-- ==== Sys2Proof/Laws/PerInstr.lean ====
section
/-! SUPPORT. One lemma per command for statements about all of them. -/

namespace Sys2Proof.Laws.TableRow

/-- The encoding of a command carries its opcode and selects a row of the opcode table whose fixed bits hold that
opcode, whatever the operands (30_encoding.md R91, R92). -/
def Statement (i : Instr) : Prop :=
  fieldOp (encode i) = i.op ∧ ∃ r ∈ opcodeTable, r.selects (encode i) = true ∧ fieldOp r.bits = i.op

/-- Masking a packed word masks its fields. -/
theorem pack_and (a b c d a' b' c' d' : Byte) :
    packWord a b c d &&& packWord a' b' c' d' = packWord (a &&& a') (b &&& b') (c &&& c') (d &&& d') := by
  refine (BitVec.and_append (x₁ := a ++ b ++ c) (x₂ := a' ++ b' ++ c') (y₁ := d) (y₂ := d')).trans ?_
  rw [BitVec.and_append, BitVec.and_append]
  rfl

/-- Masking a byte by nothing. -/
theorem byte_and_zero (x : Byte) : x &&& 0 = 0 := BitVec.and_zero

theorem nop : Statement .nop := by
  refine ⟨rfl, ⟨0x00000000#32, 0xFFFFFFFF#32⟩, by decide, by decide, rfl⟩

theorem openSession : Statement .openSession := by
  refine ⟨rfl, ⟨0x01000000#32, 0xFFFFFFFF#32⟩, by decide, by decide, rfl⟩

theorem closeSession : Statement .closeSession := by
  refine ⟨rfl, ⟨0x02000000#32, 0xFFFFFFFF#32⟩, by decide, by decide, rfl⟩

theorem wr1 (a v : Byte) : Statement (.wr1 a v) := by
  refine ⟨by rw [encode, fieldOp_pack], ⟨0x10000000#32, packWord 0xFF 0 0xFF 0⟩, by decide, ?_, rfl⟩
  rw [OpcodeRow.selects, encode, pack_and, byte_and_zero, byte_and_zero]
  show decide (packWord (0x10 &&& 255) 0 (0 &&& 255) 0 = 0x10000000#32) = true
  decide

theorem rd1 (a : Byte) : Statement (.rd1 a) := by
  refine ⟨by rw [encode, fieldOp_pack], ⟨0x11000000#32, packWord 0xFF 0 0xFF 0xFF⟩, by decide, ?_, rfl⟩
  rw [OpcodeRow.selects, encode, pack_and, byte_and_zero]
  show decide (packWord (0x11 &&& 255) 0 (0 &&& 255) (0 &&& 255) = 0x11000000#32) = true
  decide

theorem brd (a n k : Byte) : Statement (.brd a n k) := by
  refine ⟨by rw [encode, fieldOp_pack], ⟨0x12000000#32, packWord 0xFF 0 0 0⟩, by decide, ?_, rfl⟩
  rw [OpcodeRow.selects, encode, pack_and, byte_and_zero, byte_and_zero, byte_and_zero]
  show decide (packWord (0x12 &&& 255) 0 0 0 = 0x12000000#32) = true
  decide

theorem chkid : Statement .chkid := by
  refine ⟨rfl, ⟨0x20000000#32, 0xFFFFFFFF#32⟩, by decide, by decide, rfl⟩

theorem ldcal : Statement .ldcal := by
  refine ⟨rfl, ⟨0x21000000#32, 0xFFFFFFFF#32⟩, by decide, by decide, rfl⟩

theorem cfg : Statement .cfg := by
  refine ⟨rfl, ⟨0x22000000#32, 0xFFFFFFFF#32⟩, by decide, by decide, rfl⟩

theorem poll : Statement .poll := by
  refine ⟨rfl, ⟨0x23000000#32, 0xFFFFFFFF#32⟩, by decide, by decide, rfl⟩

theorem rdraw : Statement .rdraw := by
  refine ⟨rfl, ⟨0x24000000#32, 0xFFFFFFFF#32⟩, by decide, by decide, rfl⟩

theorem unpkc : Statement .unpkc := by
  refine ⟨rfl, ⟨0x30000000#32, 0xFFFFFFFF#32⟩, by decide, by decide, rfl⟩

theorem unpkr : Statement .unpkr := by
  refine ⟨rfl, ⟨0x31000000#32, 0xFFFFFFFF#32⟩, by decide, by decide, rfl⟩

theorem cmpt : Statement .cmpt := by
  refine ⟨rfl, ⟨0x40000000#32, 0xFFFFFFFF#32⟩, by decide, by decide, rfl⟩

theorem cmpp : Statement .cmpp := by
  refine ⟨rfl, ⟨0x41000000#32, 0xFFFFFFFF#32⟩, by decide, by decide, rfl⟩

theorem cmph : Statement .cmph := by
  refine ⟨rfl, ⟨0x42000000#32, 0xFFFFFFFF#32⟩, by decide, by decide, rfl⟩

end Sys2Proof.Laws.TableRow
end

