-- ==== Sys2Proof/Laws/Script.lean ====
section
/-! SUPPORT. The transport calls and the micro-operations when the environment has chosen their answers: one equation
each, for a call that is answered as asked and for one that is not. -/

namespace Sys2Proof.Machine

/-- The parameters the machine is built with meet the launch premises of 00_scope.md R7 and R9. -/
theorem params_wf : Config.params.wf = true := by
  have hlt := Config.pollMaxLessOne.isLt
  have h1 : 1 ≤ Config.params.pollMax := by
    show 1 ≤ Config.pollMaxLessOne.val + 1
    omega
  have h2 : Config.params.pollMax ≤ 65535 := by
    show Config.pollMaxLessOne.val + 1 ≤ 65535
    omega
  unfold Params.wf
  rw [decide_eq_true h1, decide_eq_true h2]
  decide

/-! ## One call -/

/-- A call whose answer is chosen takes that answer from the script and records it; nothing else changes. -/
theorem ask_reply {α : Type} (ofReply : Reply → α) (dev : RefDevice → α × RefDevice) (free : Nat → α) (event : α → Event)
    {s : State} {r : Reply} {rest : List Scripted} (h : s.bus.script = .reply r :: rest) :
    ask ofReply dev free event s = .ok (ofReply r) (s.afterCalls rest [event (ofReply r)]) := by
  rw [ask, h]
  rfl

/-- A call that never returns leaves the script without it and changes nothing else. -/
theorem ask_never {α : Type} (ofReply : Reply → α) (dev : RefDevice → α × RefDevice) (free : Nat → α) (event : α → Event)
    {s : State} {rest : List Scripted} (h : s.bus.script = .never :: rest) :
    ask ofReply dev free event s = .hung (s.afterCalls rest []) := by
  rw [ask, h]
  simp [State.afterCalls]

/-- With nothing scripted and the reference device attached, the device answers. -/
theorem ask_of_device {α : Type} (ofReply : Reply → α) (dev : RefDevice → α × RefDevice) (free : Nat → α)
    (event : α → Event) {s : State} {d : RefDevice} (h : s.bus.script = []) (hd : s.bus.device = some d) :
    ask ofReply dev free event s =
      .ok (dev d).1 { s with bus :=
        { script := [], device := some (dev d).2, history := s.bus.history ++ [event (dev d).1] } } := by
  rw [ask, h]
  simp only [askDevice, hd, recordEvent, h]

@[simp] theorem State.afterCalls_script (s : State) (rest : List Scripted) (es : List Event) :
    (s.afterCalls rest es).bus.script = rest := rfl
@[simp] theorem State.afterCalls_history (s : State) (rest : List Scripted) (es : List Event) :
    (s.afterCalls rest es).bus.history = s.bus.history ++ es := rfl

/-- Calls in a row are the calls of both, in order. -/
@[simp] theorem State.afterCalls_afterCalls (s : State) (r r' : List Scripted) (es es' : List Event) :
    (s.afterCalls r es).afterCalls r' es' = s.afterCalls r' (es ++ es') := by
  simp [State.afterCalls]

/-! ## `DevWrite1` (20_memory.md R65) -/

theorem devWrite1_ok (step : Nat) (a v : Byte) {s : State} {rest : List Scripted}
    (h : s.bus.script = .reply (.count 2) :: rest) :
    devWrite1 step a v s = .ok () (s.afterCalls rest [.tWrite [a, v] 2]) := by
  rw [devWrite1, tWrite, ask_reply _ _ _ _ h]
  rfl

theorem devWrite1_bad (step : Nat) (a v : Byte) {s : State} {c : Int} {rest : List Scripted} (hc : c ≠ 2)
    (h : s.bus.script = .reply (.count c) :: rest) :
    devWrite1 step a v s = .raised .ioError step (s.afterCalls rest [.tWrite [a, v] c]) := by
  rw [devWrite1, tWrite, ask_reply _ _ _ _ h]
  exact if_neg hc

/-! ## `DevBurst` (20_memory.md R66) -/

theorem devBurst_ok (step : Nat) (a : Byte) {n : Nat} {s : State} {bs : List Byte} {rest : List Scripted}
    (hl : bs.length = n) (h : s.bus.script = burstAnswers bs ++ rest) :
    devBurst step a n s = .ok bs (s.afterCalls rest (burstEvents a bs)) := by
  subst hl
  rw [devBurst, tWrite, ask_reply _ _ _ _ h]
  simp only [Run.bind, Reply.asCount, if_true]
  rw [tRead, ask_reply _ _ _ _ rfl]
  simp only [Reply.asBytes, Option.getD_some, if_true, State.afterCalls_afterCalls]
  rfl

theorem devBurst_bad_write (step : Nat) (a : Byte) (n : Nat) {s : State} {c : Int} {rest : List Scripted} (hc : c ≠ 1)
    (h : s.bus.script = .reply (.count c) :: rest) :
    devBurst step a n s = .raised .ioError step (s.afterCalls rest [.tWrite [a] c]) := by
  rw [devBurst, tWrite, ask_reply _ _ _ _ h]
  exact if_neg hc

theorem devBurst_bad_read (step : Nat) (a : Byte) (n : Nat) {s : State} {r : Reply} {rest : List Scripted}
    (hn : (r.asBytes.getD []).length ≠ n) (h : s.bus.script = .reply (.count 1) :: .reply r :: rest) :
    devBurst step a n s =
      .raised .ioError (step + 1) (s.afterCalls rest [.tWrite [a] 1, .tRead n r.asBytes]) := by
  rw [devBurst, tWrite, ask_reply _ _ _ _ h]
  simp only [Run.bind, Reply.asCount, if_true]
  rw [tRead, ask_reply _ _ _ _ rfl]
  simp only [if_neg hn, State.afterCalls_afterCalls]
  rfl

/-! ## A burst into the receive buffer (10_state.md R32) -/

theorem burstInto_ok (step : Nat) (a : Byte) {n : Nat} (k : Nat) {s : State} {bs : List Byte} {rest : List Scripted}
    (hl : bs.length = n) (h : s.bus.script = burstAnswers bs ++ rest) :
    burstInto step a n k s = .ok bs (putBytes k bs (s.afterCalls rest (burstEvents a bs))) := by
  rw [burstInto, devBurst_ok step a hl h]

theorem burstInto_bad_write (step : Nat) (a : Byte) (n k : Nat) {s : State} {c : Int} {rest : List Scripted} (hc : c ≠ 1)
    (h : s.bus.script = .reply (.count c) :: rest) :
    burstInto step a n k s = .raised .ioError step (dropBytes k n (s.afterCalls rest [.tWrite [a] c])) := by
  rw [burstInto, devBurst_bad_write step a n hc h]

theorem burstInto_bad_read (step : Nat) (a : Byte) (n k : Nat) {s : State} {r : Reply} {rest : List Scripted}
    (hn : (r.asBytes.getD []).length ≠ n) (h : s.bus.script = .reply (.count 1) :: .reply r :: rest) :
    burstInto step a n k s =
      .raised .ioError (step + 1) (dropBytes k n (s.afterCalls rest [.tWrite [a] 1, .tRead n r.asBytes])) := by
  rw [burstInto, devBurst_bad_read step a n hn h]

end Sys2Proof.Machine
end

