-- ==== Sys2Proof/Machine/Assembler.lean ====
section
/-! DEFINITION. The assembler (30_encoding.md R98, R99) and the text of a program (R100): from a line to commands, and
to the host's actions. -/

namespace Sys2Proof.Machine

/-! ## A line as tokens (R98: operands separated by commas, `;` starts a comment) -/

/-- A token of a line. -/
inductive Token where
  | word (w : String)
  | comma
  deriving DecidableEq, Repr

/-- The word read so far, its characters reversed, before the tokens that follow. -/
def endWord (read : List Char) (rest : List Token) : List Token :=
  if read.isEmpty then rest else .word (String.ofList read.reverse) :: rest

/-- The tokens of the characters, `read` being the word begun before them. -/
def tokens (read : List Char) (cs : List Char) : List Token :=
  match cs with
  | [] => endWord read []
  | c :: cs =>
    if c = ';' then endWord read []
    else if c = ',' then endWord read (.comma :: tokens [] cs)
    else if c = ' ' ∨ c = '\t' then endWord read (tokens [] cs)
    else tokens (c :: read) cs

/-! ## Numbers (00_scope.md R13) -/

/-- The value of a digit. -/
def digitValue (c : Char) : Option Nat :=
  if '0' ≤ c ∧ c ≤ '9' then some (c.toNat - 48)
  else if 'a' ≤ c ∧ c ≤ 'f' then some (c.toNat - 87)
  else if 'A' ≤ c ∧ c ≤ 'F' then some (c.toNat - 55)
  else none

/-- The number the digits stand for, after digits that stand for `acc`. -/
def digits (base acc : Nat) (cs : List Char) : Option Nat :=
  match cs with
  | [] => some acc
  | c :: cs =>
    match digitValue c with
    | some d => if d < base then digits base (base * acc + d) cs else none
    | none => none

/-- A literal: `0x` hexadecimal, `0b` binary, else decimal (R13). -/
def literal (cs : List Char) : Option Nat :=
  match cs with
  | '0' :: 'x' :: c :: cs => digits 16 0 (c :: cs)
  | '0' :: 'b' :: c :: cs => digits 2 0 (c :: cs)
  | c :: cs => digits 10 0 (c :: cs)
  | [] => none

/-- The value of a parameter's name (R98: allowed where a number is; 00_scope.md R7 to R11). A duration is no number
(R9). -/
def paramValue (p : Params) (name : String) : Option Nat :=
  ([("ADDR_ID", p.addrId.toNat), ("ADDR_CTRL_HUM", p.addrCtrlHum.toNat), ("ADDR_STATUS", p.addrStatus.toNat),
    ("ADDR_CTRL_MEAS", p.addrCtrlMeas.toNat), ("ADDR_CONFIG", p.addrConfig.toNat), ("ADDR_DATA", p.addrData.toNat),
    ("ADDR_CALA", p.addrCalA.toNat), ("ADDR_CALB", p.addrCalB.toNat)] ++
   [("ID_EXPECTED", p.idExpected.toNat), ("VAL_CTRL_HUM", p.valCtrlHum.toNat),
    ("VAL_CTRL_MEAS", p.valCtrlMeas.toNat), ("VAL_CONFIG", p.valConfig.toNat),
    ("MEASURING_BIT", p.measuringBit.val), ("POLL_MAX", p.pollMax)] ++
   [("LEN_CALA", Config.lenCalA), ("LEN_CALB", Config.lenCalB), ("LEN_DATA", Config.lenData),
    ("RXBUF_SIZE", Config.rxbufSize)]).lookup name

/-- A number or a parameter's name, as a value below `bound`. -/
def number (p : Params) (bound : Nat) (w : String) : Option Nat :=
  match paramValue p w with
  | some n => if n < bound then some n else none
  | none =>
    match literal w.toList with
    | some n => if n < bound then some n else none
    | none => none

/-- A byte operand (R93). -/
def byteOperand (p : Params) (w : String) : Option Byte := (number p 256 w).map (BitVec.ofNat 8)

/-! ## Commands (R98) and pseudo-commands (R99) -/

/-- The commands without operands. -/
def plainCommands : List Instr :=
  [.nop, .openSession, .closeSession, .chkid, .ldcal, .cfg, .poll, .rdraw] ++ [.unpkc, .unpkr, .cmpt, .cmpp, .cmph]

/-- A command without operands, under its spelling, or a pseudo-command. -/
def plainCommand (w : String) : Option (List Instr) :=
  if w = "INIT" then some Pseudo.init.expand
  else if w = "CYCLE" then some Pseudo.cycle.expand
  else if w = "MEASURE" then some Pseudo.measure.expand
  else (plainCommands.find? fun i => i.asm == w).map fun i => [i]

/-- `WR1 a, v`, `RD1 a`, `BRD a, n, k` and `BRD a, n` (R98). A `BRD` outside its bounds assembles to its word, which
is illegal (R94, R95; log 23). -/
def operandCommand (p : Params) (ts : List Token) : Option Instr :=
  match ts with
  | [.word m, .word a] =>
    if m = "RD1" then (byteOperand p a).map .rd1 else none
  | [.word m, .word a, .comma, .word x] =>
    match byteOperand p a, byteOperand p x with
    | some a, some x => if m = "WR1" then some (.wr1 a x) else if m = "BRD" then some (brdNoOffset a x) else none
    | _, _ => none
  | [.word m, .word a, .comma, .word n, .comma, .word k] =>
    match byteOperand p a, byteOperand p n, byteOperand p k with
    | some a, some n, some k => if m = "BRD" then some (.brd a n k) else none
    | _, _, _ => none
  | _ => none

/-- The commands the tokens of a line stand for; an empty line stands for none. -/
def commandTokens (p : Params) (ts : List Token) : Option (List Instr) :=
  match ts with
  | [] => some []
  | [.word m] => plainCommand m
  | ts => (operandCommand p ts).map fun i => [i]

/-- One line of assembler text (R98, R99). -/
def assembleLine (p : Params) (line : String) : Option (List Instr) := commandTokens p (tokens [] line.toList)

/-! ## Programs (R100) -/

/-- The registers of 10_state.md R35 that have a name of their own. -/
def namedRegister (w : String) : Option Nat :=
  ([("CMD", 0x00), ("STATUS", 0x01), ("ERRINFO", 0x02), ("ERRCMD", 0x03), ("DEVSEL", 0x04), ("POLLCNT", 0x05),
    ("CHIPID", 0x06), ("RXV_LO", 0x07), ("RXV_HI", 0x08), ("ADC_P", 0x09), ("ADC_T", 0x0A)] ++
   [("ADC_H", 0x0B), ("T_FINE", 0x0C), ("T_OUT", 0x0D), ("P_OUT", 0x0E), ("H_OUT", 0x0F), ("TEMP_C_LO", 0x22),
    ("TEMP_C_HI", 0x23), ("PRESS_HPA_LO", 0x24), ("PRESS_HPA_HI", 0x25), ("HUM_RH_LO", 0x26),
    ("HUM_RH_HI", 0x27)]).lookup w

/-- The register a name stands for, `CAL0` to `CAL17` and `RXBUF0` to `RXBUF32` among them (10_state.md R35). -/
def registerIndex (w : String) : Option Nat :=
  match namedRegister w, w.toList with
  | some n, _ => some n
  | none, 'C' :: 'A' :: 'L' :: c :: cs =>
    match digits 10 0 (c :: cs) with
    | some i => if i < 18 then some (0x10 + i) else none
    | none => none
  | none, 'R' :: 'X' :: 'B' :: 'U' :: 'F' :: c :: cs =>
    match digits 10 0 (c :: cs) with
    | some i => if i < 33 then some (0x40 + i) else none
    | none => none
  | none, _ => none

/-- What follows `CMD` (R100): a command, a pseudo-command (DESIGN CHOICE, log 24), or the word itself as a number, as
in 95_test_vectors.md P4 and V-E1. -/
def commandLine (p : Params) (ts : List Token) : Option (List HostAction) :=
  match ts with
  | [] => none
  | [.word w] =>
    match plainCommand w with
    | some is => some (issue is)
    | none => (number p (2 ^ 32) w).map fun v => [.write 0 (BitVec.ofNat 32 v)]
  | ts => (operandCommand p ts).map fun i => issue [i]

/-- What follows `HW` (R100): a register, a comma and a 32-bit value. -/
def writeLine (p : Params) (ts : List Token) : Option (List HostAction) :=
  match ts with
  | [.word r, .comma, .word v] =>
    match registerIndex r, number p (2 ^ 32) v with
    | some n, some v => some [.write n (BitVec.ofNat 32 v)]
    | _, _ => none
  | _ => none

/-- What follows `HR` (R100): a register and the value the program expects of it. DESIGN CHOICE (log 23): a comma before
the value, which may be left out. -/
def readLine (p : Params) (ts : List Token) : Option (List HostAction) :=
  match ts with
  | [.word r] => (registerIndex r).map fun n => [.read n none]
  | [.word r, .comma, .word v] =>
    match registerIndex r, number p (2 ^ 32) v with
    | some n, some v => some [.read n (some (BitVec.ofNat 32 v))]
    | _, _ => none
  | _ => none

/-- One line of a program (R100). -/
def programLine (p : Params) (line : String) : Option (List HostAction) :=
  match tokens [] line.toList with
  | [] => some []
  | .word w :: ts =>
    if w = "CMD" then commandLine p ts
    else if w = "HW" then writeLine p ts
    else if w = "HR" then readLine p ts
    else none
  | .comma :: _ => none

/-- A program: its lines, in order (R100). -/
def program (p : Params) (lines : List String) : Option (List HostAction) :=
  match lines with
  | [] => some []
  | line :: lines =>
    match programLine p line, program p lines with
    | some now, some later => some (now ++ later)
    | _, _ => none

end Sys2Proof.Machine
end

