-- ==== Sys2Proof/Tests/Slice0.lean ====
section
/-! SUPPORT. Tests of the model against the vectors of 95_test_vectors.md (each docstring names its vector), and for
every statement with hypotheses a concrete input that meets them all. -/

namespace Sys2Proof.Tests

open Sys2Proof.Machine

/-! ## Helpers -/

/-- The parameters of 95_test_vectors.md: the defaults, `VAL_CONFIG = 0xA0`, `POLL_MAX = 10`; the two durations are
any two different tokens. -/
def vectorParams : Params := { Config.params with valConfig := 0xA0#8, tWarmup := 1, tPoll := 2, pollMax := 10 }

/-- After reset, with the test parameters. -/
def fresh : State := { State.reset with cfg := vectorParams }

/-- After V-S1: a session is open, the bus is held. -/
def opened : State := { fresh with sess := .opened, busHeld := true }

/-- An open session whose coming transport calls have these answers. -/
def answering (script : List Scripted) : State := { opened with bus := ⟨script, none, []⟩ }

/-- An open session with the reference device attached. -/
def attached (reg : Memory) : State := { opened with bus := ⟨[], some ⟨reg, 0, true⟩, []⟩ }

/-- Something of the next state, `none` at a stop. -/
def after {α : Type} (f : State → α) (o : Host.Outcome State Fault Refusal) : Option α :=
  match o with
  | .next t => some (f t)
  | .fault _ | .refused _ => none

/-- A state about to take a command word. -/
def given (cw : Word) (s : State) : State := { s with hostq := [.write 0 cw] }

/-- A list as the content of the receive buffer, its first bytes. -/
def buffer (bs : List Byte) : Vector Byte 33 := writeBytes 0 bs (Vector.replicate 33 0)

/-- The 33 calibration bytes of V-U1: block A, then block B. -/
def blockA : List Byte :=
  [0x70, 0x6B, 0x43, 0x67, 0x18, 0xFC, 0x7D, 0x8E, 0x43, 0xD6, 0xD0, 0x0B, 0x27, 0x0B, 0x8C, 0x00, 0xF9, 0xFF, 0x8C,
   0x3C, 0xF8, 0xC6, 0x70, 0x17, 0x00, 0x4B]
def blockB : List Byte := [0x6F, 0x01, 0x00, 0x12, 0x2D, 0x03, 0x1E]

/-- The eight data bytes of V-U4. -/
def sample : List Byte := [0x65, 0x5A, 0xC0, 0x7E, 0xED, 0x00, 0x75, 0x30]

/-- The coefficients of V-U1, as V-U1 prints them. -/
def vectorCal : CalFile where
  t1 := 27504
  t2 := 26435
  t3 := BitVec.ofInt 16 (-1000)
  p1 := 36477
  p2 := BitVec.ofInt 16 (-10685)
  p3 := 3024
  p4 := 2855
  p5 := 140
  p6 := BitVec.ofInt 16 (-7)
  p7 := 15500
  p8 := BitVec.ofInt 16 (-14600)
  p9 := 6000
  h1 := 75
  h2 := 367
  h3 := 0
  h4 := 301
  h5 := 50
  h6 := 30

/-- An open session ready for compensation: V-U1, V-U4 and the carry of V-T1. -/
def loaded : State :=
  { opened with
    cal := vectorCal, calValid := true, adcP := 415148, adcT := 519888, adcH := 30000, rawValid := true
    tFine := 128422, tfValid := true }

/-- After V-X2, with an action of the host pending. -/
def failed (a : HostAction) : State :=
  { opened with
    sess := .aborted, err := .ioError, errCmd := 0x10F40027, lastCmd := 0x10F40027, hostq := [a] }

/-! ## Well-formedness: every bound of R94, and a term that breaks it -/

theorem test_wf_brd_accepts_largest : (Instr.brd 0x00 33 0).wf = true ∧ (Instr.brd 0x00 1 32).wf = true := by decide
theorem test_wf_brd_refuses_no_bytes : (Instr.brd 0x88 0 0).wf = false := by decide
theorem test_wf_brd_refuses_34_bytes : (Instr.brd 0x88 34 0).wf = false := by decide
theorem test_wf_brd_refuses_offset_33 : (Instr.brd 0x88 1 33).wf = false := by decide
theorem test_wf_brd_refuses_past_the_end : (Instr.brd 0x88 2 32).wf = false := by decide

/-! ## Decoding: the words of V-D1 -/

theorem test_decode_nop : decode 0x00000000#32 = .ok .nop := by decide
theorem test_decode_open : decode 0x01000000#32 = .ok .openSession := by decide
theorem test_decode_close : decode 0x02000000#32 = .ok .closeSession := by decide
/-- `OP` 0001_0000, `A` 1111_0100, `N` 0, `K` 0010_0111. -/
theorem test_decode_wr1 : decode 0b00010000_11110100_00000000_00100111#32 = .ok (.wr1 0xF4 0x27) := by decide
theorem test_decode_wr1_value_ff : decode 0x100000FF#32 = .ok (.wr1 0x00 0xFF) := by decide
theorem test_decode_rd1 : decode 0x11D00000#32 = .ok (.rd1 0xD0) := by decide
theorem test_decode_brd_block_a : decode 0x12881A00#32 = .ok (.brd 0x88 26 0) := by decide
/-- `OP` 0001_0010, `A` 1110_0001, `N` 0000_0111, `K` 0001_1010. -/
theorem test_decode_brd_block_b : decode 0b00010010_11100001_00000111_00011010#32 = .ok (.brd 0xE1 7 26) := by decide
theorem test_decode_brd_bounds :
    decode 0x12002100#32 = .ok (.brd 0x00 33 0) ∧ decode 0x12000120#32 = .ok (.brd 0x00 1 32) := by decide
theorem test_decode_sequences :
    decode 0x20000000#32 = .ok .chkid ∧ decode 0x21000000#32 = .ok .ldcal ∧ decode 0x22000000#32 = .ok .cfg ∧
    decode 0x23000000#32 = .ok .poll ∧ decode 0x24000000#32 = .ok .rdraw := by decide
theorem test_decode_unpack : decode 0x30000000#32 = .ok .unpkc ∧ decode 0x31000000#32 = .ok .unpkr := by decide
theorem test_decode_compensate :
    decode 0x40000000#32 = .ok .cmpt ∧ decode 0x41000000#32 = .ok .cmpp ∧ decode 0x42000000#32 = .ok .cmph := by decide
theorem test_decode_unknown_op :
    decode 0x03000000#32 = .error .unknownOp ∧ decode 0x25000000#32 = .error .unknownOp ∧
    decode 0x43000000#32 = .error .unknownOp ∧ decode 0xFFFFFFFF#32 = .error .unknownOp := by decide
theorem test_decode_unused_field :
    decode 0x00000001#32 = .error .unusedFieldNonzero ∧ decode 0x01000100#32 = .error .unusedFieldNonzero ∧
    decode 0x10F40127#32 = .error .unusedFieldNonzero ∧ decode 0x10FFFF00#32 = .error .unusedFieldNonzero ∧
    decode 0x11D00001#32 = .error .unusedFieldNonzero ∧ decode 0x42000001#32 = .error .unusedFieldNonzero := by decide
theorem test_decode_brd_out_of_bounds :
    decode 0x12000000#32 = .error .brdOutOfBounds ∧ decode 0x12002200#32 = .error .brdOutOfBounds ∧
    decode 0x12000220#32 = .error .brdOutOfBounds ∧ decode 0x12000121#32 = .error .brdOutOfBounds ∧
    decode 0x12881A08#32 = .error .brdOutOfBounds := by decide
theorem test_decode_table_word :
    decodeTableWord 32 0x12E1071A = some (.brd 0xE1 7 26) ∧ decodeTableWord 32 0x03000000 = none := by decide
/-- 30_encoding.md R98. -/
theorem test_assembler : (Instr.brd 0x88 26 0).asm = "BRD 136, 26, 0" ∧ brdNoOffset 0x88 26 = .brd 0x88 26 0 := by decide
/-- The examples of 30_encoding.md R98, and a number that is no byte. -/
theorem test_assemble_line :
    (assembleLine fresh.cfg "BRD 0x88, 26 ; block A").map (List.map encode) = some [0x12881A00#32] ∧
    (assembleLine fresh.cfg "WR1 ADDR_CTRL_MEAS, 0b00100111").map (List.map encode) = some [0x10F40027#32] ∧
    assembleLine fresh.cfg "WR1 256, 0" = none := by decide
/-- Lines of P1, of P4 (a word as a number) and of P2 (95_test_vectors.md, R100). -/
theorem test_program_text :
    program fresh.cfg ["HW DEVSEL, 0x00000176", "CMD OPEN", "CMD 0x10F42727", "HR RXBUF32", "HR STATUS, 0x000030FD"] =
      some [.write 4 0x176, .write 0 0x01000000, .write 0 0x10F42727, .read 0x60 none, .read 1 (some 0x000030FD)] := by
  decide
/-- R99: the words of `CYCLE`, and what becomes of a later one after the session was aborted. -/
theorem test_pseudo_command :
    program fresh.cfg ["CMD CYCLE ; one"] =
      some [.write 0 0x24000000, .follow 0x40000000, .follow 0x41000000, .follow 0x42000000] ∧
    after (fun t => (t.lastCmd, t.hostq)) (step (failed (.follow 0x40000000))) = some (0x10F40027, []) ∧
    after (·.tOut) (step { loaded with hostq := [.follow 0x40000000] }) = some 2508 := by decide
/-- R100: a program's expected value is held against what the read returned. -/
theorem test_expected_value :
    after readsAsExpected (step { opened with hostq := [.read 1 (some 0x00001001)] }) = some true ∧
    after readsAsExpected (step { opened with hostq := [.read 1 (some 0x00000000)] }) = some false := by decide
/-- 30_encoding.md R99, 90_conflicts.md C9. -/
theorem test_measure_is_init_then_cycle : Pseudo.measure.expand = Pseudo.init.expand ++ Pseudo.cycle.expand := by decide

/-! ## The step: how a word reaches its command -/

/-- V-S5's kind: the word is the block's last command, in the step that follows. -/
theorem test_fetch_word_is_run :
    after (·.lastCmd) (step (State.reset.withFetchWord 32 0x00000000)) = some 0x00000000#32 ∧
    after (·.errCmd) (step (State.reset.withFetchWord 32 0x40000000)) = some 0x40000000#32 := by decide

/-! ## Session commands -/

/-- V-S1. -/
theorem test_open :
    after (fun t => (statusWord t, t.bus.history))
      (step (given 0x01000000 { fresh with bus := ⟨[.reply .ok, .reply .ok], none, []⟩ })) =
    some (0x00001001, [.busOpen 0 true, .addrSelect 0 true]) := by decide
/-- V-S2. -/
theorem test_open_fails :
    after (fun t => (statusWord t, t.errCmd, errInfoWord t))
      (step (given 0x01000000 { fresh with bus := ⟨[.reply .fail], none, []⟩ })) =
    some (0x00010002, 0x01000000, 0x00010000) := by decide
/-- V-S3, after the failed `AddrSelect`. -/
theorem test_close :
    after (fun t => (statusWord t, t.bus.history))
      (step (given 0x02000000 { fresh with sess := .aborted, busHeld := true, err := .transportError })) =
    some (0x00010000, [.busClose]) := by decide
/-- V-S6. -/
theorem test_close_while_closed :
    after (fun t => (statusWord t, t.bus.history)) (step (given 0x02000000 fresh)) = some (0x00000000, []) := by decide
/-- V-S5. -/
theorem test_nop_while_aborted :
    after (fun t => (statusWord t, t.errStep))
      (step (given 0x00000000 { opened with sess := .aborted, err := .orderViolation, errStep := 0xFFFF })) =
    some (0x00041002, 0xFFFF) := by decide
/-- V-E2: the illegal word goes before the session state. -/
theorem test_illegal_word :
    after (fun t => (statusWord t, errInfoWord t)) (step (given 0x12002200 fresh)) = some (0x00030000, 0x0003FFFF) := by
  decide

/-! ## Transport commands -/

/-- V-X1. -/
theorem test_wr1 :
    after (fun t => (statusWord t, t.bus)) (exec (.wr1 0xF4 0x27) (attached [])) =
    some (0x00001001, ⟨[], some ⟨[(0xF4, 0x27)], 0xF5, true⟩, [.tWrite [0xF4, 0x27] 2]⟩) := by decide
/-- V-X2, the answer -1. -/
theorem test_wr1_fails :
    after (fun t => (statusWord t, t.errCmd, errInfoWord t))
      (step (given 0x10F40027 (answering [.reply (.count (-1))]))) =
    some (0x00021002, 0x10F40027, 0x00020000) := by decide
/-- V-X3. -/
theorem test_rd1 :
    after (fun t => (t.rxbuf[0], t.rxv, t.bus.history)) (exec (.rd1 0xD0) (attached [(0xD0, 0x60)])) =
    some (0x60, 1, [.tWrite [0xD0] 1, .tRead 1 (some [0x60])]) := by decide
/-- V-X4, the second burst. -/
theorem test_brd :
    after (fun t => (t.rxv, t.rxbuf[25], t.rxbuf[26], t.rxbuf[32]))
      (exec (.brd 0xE1 7 26) { answering (burstAnswers blockB) with rxbuf := buffer blockA, rxv := 0x3FFFFFF }) =
    some (0x1FFFFFFFF, 0x4B, 0x6F, 0x1E) := by decide +kernel
/-- V-X5: six bytes of seven. -/
theorem test_brd_short :
    after (fun t => (statusWord t, errInfoWord t, t.rxv))
      (exec (.brd 0xE1 7 26)
        { answering [.reply (.count 1), .reply (.bytes (blockB.take 6))] with rxv := 0x3FFFFFF }) =
    some (0x00021002, 0x00020001, 0x3FFFFFF) := by decide

/-! ## Fixed programs -/

/-- V-Q1, both cases. -/
theorem test_chkid :
    after (fun t => (statusWord t, t.chipId)) (exec .chkid (attached [(0xD0, 0x60)])) = some (0x00003001, 0x60) ∧
    after (fun t => (statusWord t, t.chipId)) (exec .chkid (attached [(0xD0, 0x58)])) = some (0x00003101, 0x58) := by
  decide
/-- V-Q2. -/
theorem test_ldcal :
    after (fun t => (statusWord t, t.cal)) (exec .ldcal (answering (burstAnswers blockA ++ burstAnswers blockB))) =
    some (0x00001005, vectorCal) := by decide +kernel
/-- P3, step 3 (without the identity check before it). -/
theorem test_ldcal_short_block_b :
    after (fun t => (statusWord t, errInfoWord t, t.rxv))
      (exec .ldcal
        (answering (burstAnswers blockA ++ [.reply (.count 1), .reply (.bytes (blockB.take 6))]))) =
    some (0x00021002, 0x00020003, 0x3FFFFFF) := by decide
/-- V-Q3. -/
theorem test_cfg :
    after (·.bus.history) (exec .cfg (attached [])) =
    some [.tWrite [0xF2, 0x01] 2, .tWrite [0xF4, 0x27] 2, .tWrite [0xF5, 0xA0] 2] := by decide
/-- V-Q3, the second write answered 0. -/
theorem test_cfg_fails :
    after (fun t => (statusWord t, errInfoWord t, t.bus.history))
      (exec .cfg (answering [.reply (.count 2), .reply (.count 0)])) =
    some (0x00021002, 0x00020001, [.tWrite [0xF2, 0x01] 2, .tWrite [0xF4, 0x27] 0]) := by decide
/-- S3, V-Q4. -/
theorem test_poll :
    after (fun t => (statusWord t, t.pollCnt, t.rxbuf[0], t.bus.history.length))
      (exec .poll
        (answering (([0x08, 0x08, 0x08, 0x00] : List Byte).flatMap fun b => burstAnswers [b]))) =
    some (0x00001001, 4, 0x00, 12) := by decide
/-- S4, V-Q6. -/
theorem test_poll_times_out :
    after (fun t => (statusWord t, t.pollCnt, t.bus.history.countP Event.isRead, t.bus.history.length))
      (exec .poll (attached [(0xF3, 0x0C)])) =
    some (0x00001801, 10, 10, 31) := by decide
/-- V-Q8, V-U4. -/
theorem test_rdraw :
    after (fun t => (statusWord t, t.adcP, t.adcT, t.adcH))
      (exec .rdraw { answering (burstAnswers sample) with tfValid := true, tValid := true }) =
    some (0x00001009, 415148, 519888, 30000) := by decide
/-- R139: a short burst changes no raw count and no valid bit. -/
theorem test_rdraw_short :
    after (fun t => (statusWord t, t.adcP, t.rxv))
      (exec .rdraw { loaded with bus := ⟨[.reply (.count 1), .reply (.bytes [])], none, []⟩, rxv := 0x1FF }) =
    some (0x0002101E, 415148, 0x100) := by decide

/-! ## Unpacking -/

/-- V-U1. -/
theorem test_unpkc :
    after (fun t => (statusWord t, t.cal))
      (exec .unpkc { opened with rxbuf := buffer (blockA ++ blockB), rxv := BitVec.allOnes 33 }) =
    some (0x00001005, vectorCal) := by decide +kernel
/-- S2, both readings of `H45_SIGNED`, and S1. -/
theorem test_packed_pair :
    [packedField false (packedH4 0xAB 0x00), packedField false (packedH5 0x00 0xCD), packedField false (packedH4 0xAB 0xFF),
      packedField false (packedH5 0xFF 0xCD)].map BitVec.toInt = [2736, 3280, 2751, 3295] ∧
    [packedField true (packedH4 0xAB 0x00), packedField true (packedH5 0x00 0xCD), packedField true (packedH4 0xAB 0xFF),
      packedField true (packedH5 0xFF 0xCD)].map BitVec.toInt = [-1360, -816, -1345, -801] ∧
    packedField false (packedH4 0x12 0x34) = 292 ∧ packedField false (packedH5 0x34 0x56) = 1379 := by decide
/-- V-U5, fourth row. -/
theorem test_unpkr :
    after (fun t => (statusWord t, t.adcP, t.adcT, t.adcH))
      (exec .unpkr
        { opened with rxbuf := buffer [0x12, 0x34, 0x56, 0x78, 0x9A, 0xBC, 0xDE, 0xF0], rxv := 0xFF, pValid := true }) =
    some (0x00001009, 74565, 493995, 57072) := by decide
/-- V-U6: the bytes of a `CHKID` alone do not do. -/
theorem test_unpkr_refused :
    after (fun t => (statusWord t, errInfoWord t)) (exec .unpkr { opened with rxv := 1 }) =
    some (0x00041002, 0x0004FFFF) := by decide

/-! ## Compensation -/

/-- V-T1. -/
theorem test_cmpt :
    after (fun t => (statusWord t, t.tFine, t.tOut)) (exec .cmpt { loaded with tFine := 0, tfValid := false }) =
    some (0x0000103D, 128422, 2508) := by decide
/-- V-T2, V-T6, V-T8. -/
theorem test_temperature :
    compT 0 27504 26435 (BitVec.ofInt 16 (-1000)) = ⟨BitVec.ofInt 32 (-721301), BitVec.ofInt 32 (-14088), false⟩ ∧
    compT 1048575 0 32767 0 = ⟨BitVec.ofInt 32 (-80), BitVec.ofInt 32 (-2), true⟩ ∧
    compT 0 65535 (BitVec.ofInt 16 (-32768)) (BitVec.ofInt 16 (-32768)) = ⟨32, 1, true⟩ := by decide
/-- V-P1. -/
theorem test_cmpp :
    after (fun t => (statusWord t, t.pOut)) (exec .cmpp loaded) = some (0x0000105D, 25767233) := by decide
/-- V-P4, V-P11, V-P12, V-P14. -/
theorem test_pressure :
    compP 1048575 128422 vectorCal = ⟨4293269792, false, true⟩ ∧
    compP 415148 1176576 { vectorCal with p2 := BitVec.ofInt 16 (-32768), p3 := 0 } = ⟨0, true, false⟩ ∧
    compP 415148 1176575
      { CalFile.zero with p1 := 36477, p2 := BitVec.ofInt 16 (-32768) } = ⟨2654692206, false, true⟩ ∧
    compP 415148 2147483647 vectorCal = ⟨30349063, false, true⟩ := by decide
/-- V-H1. -/
theorem test_cmph :
    after (fun t => (statusWord t, t.hOut)) (exec .cmph loaded) = some (0x0000109D, 61519) := by decide
/-- V-H7, V-H15, V-H13, V-H18. -/
theorem test_humidity :
    compH 40000 128422 vectorCal = ⟨102400, false⟩ ∧ compH 19420 128422 vectorCal = ⟨0, false⟩ ∧
    compH 30000 128422 { vectorCal with h3 := 10, h6 := BitVec.ofInt 8 (-30) } = ⟨58756, false⟩ ∧
    compH 30000 128422 { vectorCal with h4 := 2048 } = ⟨102400, true⟩ := by decide

/-! ## Read-out -/

/-- Section 10 of 95_test_vectors.md. -/
theorem test_celsius :
    toCelsius 2508 = 0x4039147AE147AE14 ∧ toCelsius (BitVec.ofInt 32 (-14088)) = 0xC0619C28F5C28F5C ∧
    toCelsius (BitVec.ofInt 32 (-1)) = 0xBF847AE147AE147B ∧ toCelsius 0 = 0 ∧
    toCelsius 2147483647 = 0x41747AE147851EB8 ∧ toCelsius 0x80000000 = 0xC1747AE147AE147B := by decide
theorem test_hectopascal :
    toHpa 25767233 = 0x408F7442A3D70A3D ∧ toHpa 44339071 = 0x409B0FFAD70A3D71 ∧
    toHpa 4294967295 = 0x41047AE14799999A ∧ toHpa 0 = 0 := by decide
theorem test_humidity_percent :
    toRh 61519 = 0x404E09E000000000 ∧ toRh 102400 = 0x4059000000000000 ∧ toRh 1 = 0x3F50000000000000 ∧ toRh 0 = 0 := by
  decide

/-! ## Host registers -/

/-- V-S8. -/
theorem test_host_writes :
    after (·.devSel) (step { fresh with hostq := [.write 0x04 0x176] }) = some 0x176 ∧
    after (·.devSel) (step { opened with hostq := [.write 0x04 0x176] }) = some 0 ∧
    after (·.tfValid) (step { fresh with hostq := [.write 0x0C 5] }) = some false ∧
    after (fun t => (t.tFine, statusWord t)) (step { opened with hostq := [.write 0x0C 128422] }) =
      some (128422, 0x00001011) := by decide
/-- The host reads of V-U1 and of V-T1, V-P1, V-H1 in section 10. -/
theorem test_host_reads :
    [0x10, 0x11, 0x12, 0x14, 0x18, 0x1C, 0x1F, 0x20, 0x21].map (hostView · loaded) =
      [0x00006B70, 0x00006743, 0xFFFFFC18, 0xFFFFD643, 0xFFFFFFF9, 0x0000004B, 0x0000012D, 0x00000032,
       0x0000001E].map some ∧
    [0x22, 0x23, 0x24, 0x25, 0x26, 0x27, 0x28].map
        (hostView · { loaded with tOut := 2508, tValid := true, pOut := 25767233, pValid := true, hOut := 61519,
                                  hValid := true }) =
      [0xE147AE14, 0x4039147A, 0xA3D70A3D, 0x408F7442, 0x00000000, 0x404E09E0, 0].map some ∧
    hostView 0x0D opened = none := by decide

/-! ## Witnesses: for every statement with hypotheses, inputs that meet them together -/

/-- What the vectors call "after V-S1" meets the invariant. -/
theorem opened_inv : opened.Inv where
  cfgWf := by decide
  memWf := fun _ h => nomatch h
  closedBus := by decide
  openedErr := by decide
  abortedErr := by decide
  clearErr := by decide
  closedClear := fun h => nomatch h
  tNeeds := by decide
  pNeeds := by decide
  hNeeds := by decide
  warnNeeds := by decide
  idMatches := by decide
  hRange := by decide
  guardZero := by decide
  calPacked := fun h => nomatch h
  pollBound := by decide
  pollTimedOut := by decide

theorem failed_inv (a : HostAction) : (failed a).Inv where
  cfgWf := opened_inv.cfgWf
  memWf := fun _ h => nomatch h
  closedBus := fun h => nomatch h
  openedErr := fun h => nomatch h
  abortedErr := fun _ h => nomatch h
  clearErr := fun h => nomatch h
  closedClear := fun h => nomatch h
  tNeeds := fun h => nomatch h
  pNeeds := fun h => nomatch h
  hNeeds := fun h => nomatch h
  warnNeeds := fun h => nomatch h
  idMatches := fun h => nomatch h
  hRange := fun h => nomatch h
  guardZero := fun h => nomatch h
  calPacked := fun h => nomatch h
  pollBound := Nat.zero_le _
  pollTimedOut := fun h => nomatch h

theorem witness_DecodeOfEncodeIsTheCommand :
    (Instr.brd 0x00 33 0).wf = true ∧ (Instr.brd 0x00 1 32).wf = true ∧ (Instr.wr1 0xFF 0xFF).wf = true := by decide

theorem witness_EncodeOfDecodeIsTheWord :
    decode 0x12002100#32 = .ok (.brd 0x00 33 0) ∧ decode 0x12000120#32 = .ok (.brd 0x00 1 32) ∧
    decode 0x10FF00FF#32 = .ok (.wr1 0xFF 0xFF) := by decide

theorem witness_LegalWordsAreTheTablesRows :
    (∃ r ∈ opcodeTable, r.selects 0x12002100#32 = true) ∧ fieldOp 0x12002100#32 = 0x12 := by decide

theorem witness_NoWordSelectsTwoRows :
    ⟨0x12000000#32, 0xFF000000#32⟩ ∈ opcodeTable ∧
    OpcodeRow.selects ⟨0x12000000#32, 0xFF000000#32⟩ 0x12002100#32 = true := by decide

theorem witness_StepRunsTheDecodedCommand :
    (given 0x10F40027 opened).hung = false ∧ (given 0x10F40027 opened).hostq = [.write 0 0x10F40027] ∧
    decode 0x10F40027#32 = .ok (.wr1 0xF4 0x27) ∧
    (given 0x12881A08 opened).hung = false ∧ (given 0x12881A08 opened).hostq = [.write 0 0x12881A08] ∧
    decode 0x12881A08#32 = .error .brdOutOfBounds ∧
    { opened with hostq := [.follow 0x20000000] }.hostq = .follow 0x20000000 :: [] ∧ opened.sess ≠ .aborted ∧
    decode 0x20000000#32 = .ok .chkid ∧
    (failed (.follow 0x22000000)).hung = false ∧ (failed (.follow 0x22000000)).hostq = .follow 0x22000000 :: [] ∧
    (failed (.follow 0x22000000)).sess = .aborted := by decide

theorem witness_IllegalWordIsRecordedAndNothingElse :
    decode 0x12881A08#32 = .error .brdOutOfBounds ∧ decode 0x03000000#32 = .error .unknownOp ∧
    decode 0x10F42727#32 = .error .unusedFieldNonzero := by decide

theorem witness_FailRecordsTheFirstErrorAndAborts :
    ErrCode.ioError ≠ .clear ∧ opened.err = .clear ∧ (failed .reset).err ≠ .clear := by decide

/-- One state for each clause, the receive buffer's last needed byte the invalid one. -/
theorem witness_OutOfOrderCommandIsAnOrderViolation :
    opened.sess ≠ .closed ∧ fresh.sess ≠ .opened ∧ { loaded with adcP := 0 }.calValid = true ∧
    (∃ j < 33, { opened with rxv := 0x0FFFFFFFF }.rxv.getLsbD j = false) ∧
    (∃ j < 8, { opened with rxv := 0x1FFFFFF7F }.rxv.getLsbD j = false) ∧
    opened.calValid = false ∧ { loaded with rawValid := false }.rawValid = false ∧
    { loaded with tfValid := false }.tfValid = false := by decide

/-- The three ways on: reset, `CLOSE`, anything else. -/
theorem witness_AbortedSessionIsLeftOnlyByCloseOrReset :
    ((failed .reset).Inv ∧ (failed .reset).sess = .aborted ∧ ∃ t, step (failed .reset) = .next t) ∧
    ((failed (.write 0 0x02000000)).Inv ∧ ∃ t, step (failed (.write 0 0x02000000)) = .next t) ∧
    ((failed (.write 0 0x22000000)).Inv ∧ ∃ t, step (failed (.write 0 0x22000000)) = .next t) :=
  ⟨⟨failed_inv _, rfl, _, rfl⟩, ⟨failed_inv _, _, rfl⟩, ⟨failed_inv _, _, rfl⟩⟩

theorem witness_RecordedErrorIsKeptUntilOpenOrReset :
    ((failed (.read 1 none)).err ≠ .clear ∧ ∃ t, step (failed (.read 1 none)) = .next t) ∧
    ({ failed (.write 0 0x01000000) with sess := .closed }.err ≠ .clear ∧
      ∃ t, step { failed (.write 0 0x01000000) with sess := .closed } = .next t) ∧
    ({ failed (.follow 0x01000000) with sess := .closed }.err ≠ .clear ∧
      ∃ t, step { failed (.follow 0x01000000) with sess := .closed } = .next t) :=
  ⟨⟨by decide, _, rfl⟩, ⟨by decide, _, rfl⟩, ⟨by decide, _, rfl⟩⟩

theorem witness_IdleStepKeepsAllAndStuckStepStops :
    fresh.hung = false ∧ fresh.hostq = [] ∧ { fresh with hung := true }.hung = true := by decide

theorem witness_EveryStepCompletesWhileTransportAnswers :
    (given 0x23000000 (answering [.device, .reply .fail])).transportAnswers := ⟨rfl, by decide⟩

theorem witness_StepOnlyAppendsToHistory : ∃ t, step (given 0x01000000 fresh) = .next t := ⟨_, rfl⟩

theorem witness_StepKeepsTheInvariant : opened.Inv ∧ ∃ t, step opened = .next t := ⟨opened_inv, _, rfl⟩

theorem witness_OpenCompletes :
    { fresh with bus := ⟨[.reply .ok, .reply .ok], none, []⟩ }.sess = .closed ∧
    { fresh with bus := ⟨[.reply .ok, .reply .ok], none, []⟩ }.bus.script = .reply .ok :: .reply .ok :: [] := by decide

theorem witness_OpenFollowsItsAnswers : fresh.sess = .closed := by decide

theorem witness_ResetLeavesTheTablesValues :
    { loaded with hostq := [.reset] }.hung = false ∧ { loaded with hostq := [.reset] }.hostq = .reset :: [] := by decide

theorem witness_Wr1MakesOneWrite :
    (answering [.reply (.count 2)]).sess = .opened ∧
    (answering [.reply (.count 2)]).bus.script = .reply (.count 2) :: [] := by decide

/-- V-X2: too few, too many, negative. -/
theorem witness_Wr1WrongCountIsAnIoError :
    (answering [.reply (.count (-1))]).sess = .opened ∧ (1 : Int) ≠ 2 ∧ (3 : Int) ≠ 2 ∧ (-1 : Int) ≠ 2 ∧
    (answering [.reply (.count (-1))]).bus.script = .reply (.count (-1)) :: [] := by decide

/-- The largest burst, and the last byte of the buffer. -/
theorem witness_BrdStoresTheBurst :
    (opened.sess = .opened ∧ (Instr.brd 0 33 0).wf = true ∧ (blockA ++ blockB).length = (33 : Byte).toNat ∧
      (answering (burstAnswers (blockA ++ blockB))).bus.script = burstAnswers (blockA ++ blockB) ++ []) ∧
    ((Instr.brd 0 1 32).wf = true ∧ [(0x5A : Byte)].length = (1 : Byte).toNat ∧
      (answering (burstAnswers [0x5A])).bus.script = burstAnswers [0x5A] ++ []) := by decide

/-- Both failures, over the largest range and at the last byte. -/
theorem witness_FailedBurstDeliversNothing :
    (opened.sess = .opened ∧ (Instr.brd 0 33 0).wf = true ∧ (0 : Int) ≠ 1 ∧
      (answering [.reply (.count 0)]).bus.script = .reply (.count 0) :: []) ∧
    ((Instr.brd 0 1 32).wf = true ∧ ((Reply.bytes []).asBytes.getD []).length ≠ (1 : Byte).toNat ∧
      (answering [.reply (.count 1), .reply (.bytes [])]).bus.script =
        .reply (.count 1) :: .reply (.bytes []) :: []) := by decide

theorem witness_BurstIsOneTransaction :
    opened.sess = .opened ∧ opened.hung = false ∧ ∃ t, exec (.brd 0 33 0) opened = .next t := ⟨rfl, rfl, _, rfl⟩

theorem witness_Rd1IsBrdOfOneByteIntoZero :
    (answering (burstAnswers [0x60])).sess = .opened ∧
    (answering (burstAnswers [0x60])).bus.script = burstAnswers [0x60] ++ [] := by decide

/-- The last device address is in use; a burst from it wraps. -/
theorem witness_ReferenceDeviceIsWrittenAndRead :
    (attached [(0x00, 0x11), (0xFF, 0x22)]).sess = .opened ∧ (attached [(0x00, 0x11), (0xFF, 0x22)]).bus.script = [] ∧
    (attached [(0x00, 0x11), (0xFF, 0x22)]).bus.device = some ⟨[(0x00, 0x11), (0xFF, 0x22)], 0, true⟩ ∧
    Memory.wf [(0x00, 0x11), (0xFF, 0x22)] = true ∧ (Instr.brd 0xFF 33 0).wf = true := by decide

theorem witness_CanonicalMemoriesAreEqualWhenTheyReadEqual :
    Memory.wf [(0x00, 0x11), (0xFF, 0x22)] = true ∧
    ∀ a < 256, Memory.get [(0x00, 0x11), (0xFF, 0x22)] a = Memory.get [(0x00, 0x11), (0xFF, 0x22)] a :=
  ⟨by decide, fun _ _ => rfl⟩

/-- V-Q1: the expected byte and another one. -/
theorem witness_ChkidReadsAndCompares :
    opened.sess = .opened ∧ (answering (burstAnswers [0x60])).bus.script = burstAnswers [0x60] ++ [] ∧
    (answering (burstAnswers [0x58])).bus.script = burstAnswers [0x58] ++ [] ∧ (0x60 : Byte) = vectorParams.idExpected ∧
    (0x58 : Byte) ≠ vectorParams.idExpected := by decide

theorem witness_LdcalLoadsBothBlocks :
    opened.sess = .opened ∧ opened.calValid = false ∧ blockA.length = 26 ∧ blockB.length = 7 ∧
    (answering (burstAnswers blockA ++ burstAnswers blockB)).bus.script =
      burstAnswers blockA ++ (burstAnswers blockB ++ []) := by decide

/-- The four failing calls. -/
theorem witness_FailedLdcalWritesNoCoefficient :
    opened.sess = .opened ∧ opened.calValid = false ∧ blockA.length = 26 ∧ (0 : Int) ≠ 1 ∧
    ((Reply.bytes blockB).asBytes.getD []).length ≠ 26 ∧ (Reply.fail.asBytes.getD []).length ≠ 7 ∧
    (answering [.reply (.count 0)]).bus.script = .reply (.count 0) :: [] ∧
    (answering [.reply (.count 1), .reply (.bytes blockB)]).bus.script =
      .reply (.count 1) :: .reply (.bytes blockB) :: [] ∧
    (answering (burstAnswers blockA ++ [.reply (.count 0)])).bus.script =
      burstAnswers blockA ++ .reply (.count 0) :: [] ∧
    (answering (burstAnswers blockA ++ [.reply (.count 1), .reply .fail])).bus.script =
      burstAnswers blockA ++ .reply (.count 1) :: .reply .fail :: [] := by decide

theorem witness_LdcalEqualsTwoBurstsAndUnpack :
    opened.sess = .opened ∧ opened.calValid = false ∧
    ∃ t, exec .ldcal (answering (burstAnswers blockA ++ burstAnswers blockB)) = .next t ∧ t.sess = .opened ∧
      t.hung = false := ⟨rfl, rfl, _, rfl, rfl, rfl⟩

theorem witness_CfgWritesThreeRegisters :
    (answering [.reply (.count 2), .reply (.count 2), .reply (.count 2)]).sess = .opened ∧
    (answering [.reply (.count 2), .reply (.count 2), .reply (.count 2)]).bus.script =
      .reply (.count 2) :: .reply (.count 2) :: .reply (.count 2) :: [] := by decide

theorem witness_CfgStopsAtItsFirstFailure :
    opened.sess = .opened ∧ (0 : Int) ≠ 2 ∧ (answering [.reply (.count 0)]).bus.script = .reply (.count 0) :: [] ∧
    (answering [.reply (.count 2), .reply (.count 0)]).bus.script = .reply (.count 2) :: .reply (.count 0) :: [] ∧
    (answering [.reply (.count 2), .reply (.count 2), .reply (.count 0)]).bus.script =
      .reply (.count 2) :: .reply (.count 2) :: .reply (.count 0) :: [] := by decide

/-- Ready at the first read, and at the last one `POLL_MAX` allows. -/
theorem witness_PollStopsAtTheFirstReadyRead :
    opened.sess = .opened ∧ ([] : List Byte).length < opened.cfg.pollMax ∧
    (List.replicate 9 (0x08 : Byte)).length < opened.cfg.pollMax ∧
    (∀ x ∈ List.replicate 9 (0x08 : Byte), x.getLsbD opened.cfg.measuringBit.val = true) ∧
    (0xF7 : Byte).getLsbD opened.cfg.measuringBit.val = false ∧
    (answering ((List.replicate 9 (0x08 : Byte)).flatMap (fun x => burstAnswers [x]) ++ burstAnswers [0xF7])).bus.script =
      (List.replicate 9 (0x08 : Byte)).flatMap (fun x => burstAnswers [x]) ++ (burstAnswers [0xF7] ++ []) := by decide

theorem witness_PollExhaustedIsNoError :
    opened.sess = .opened ∧ (List.replicate 9 (0x08 : Byte)).length + 1 = opened.cfg.pollMax ∧
    (∀ x ∈ List.replicate 9 (0x08 : Byte) ++ [0x0C], x.getLsbD opened.cfg.measuringBit.val = true) ∧
    (answering ((List.replicate 9 (0x08 : Byte) ++ [0x0C]).flatMap fun x => burstAnswers [x])).bus.script =
      (List.replicate 9 (0x08 : Byte) ++ [0x0C]).flatMap (fun x => burstAnswers [x]) ++ [] := by decide

/-- The first read fails, and the last one `POLL_MAX` allows; at its write and at its read (V-Q7's kind). -/
theorem witness_PollFailureCountsCompletedReads :
    opened.sess = .opened ∧ ([] : List Byte).length < opened.cfg.pollMax ∧
    (List.replicate 9 (0x08 : Byte)).length < opened.cfg.pollMax ∧
    (∀ x ∈ List.replicate 9 (0x08 : Byte), x.getLsbD opened.cfg.measuringBit.val = true) ∧
    (0 : Int) ≠ 1 ∧ ((Reply.bytes []).asBytes.getD []).length ≠ 1 ∧
    (answering [.reply (.count 0)]).bus.script =
      ([] : List Byte).flatMap (fun x => burstAnswers [x]) ++ [.reply (.count 0)] ∧
    (answering ((List.replicate 9 (0x08 : Byte)).flatMap (fun x => burstAnswers [x]) ++
        [.reply (.count 1), .reply (.bytes [])])).bus.script =
      (List.replicate 9 (0x08 : Byte)).flatMap (fun x => burstAnswers [x]) ++
        [.reply (.count 1), .reply (.bytes [])] := by decide

/-- With the fairness premise, and a state without it. -/
theorem witness_PollIsBounded :
    opened.sess = .opened ∧ opened.transportAnswers ∧ (answering [.never]).sess = .opened :=
  ⟨by decide, ⟨rfl, by decide⟩, by decide⟩

theorem witness_RdrawReadsOneSample :
    opened.sess = .opened ∧ sample.length = 8 ∧
    (answering (burstAnswers sample)).bus.script = burstAnswers sample ++ [] := by decide

theorem witness_RdrawEqualsBurstAndUnpack :
    opened.sess = .opened ∧
    ∃ t, exec .rdraw (answering (burstAnswers sample)) = .next t ∧ t.sess = .opened ∧ t.hung = false :=
  ⟨rfl, _, rfl, rfl, rfl⟩

theorem witness_FailedReadKeepsDataRegisters :
    opened.sess = .opened ∧ opened.err = .clear ∧ opened.calValid = false ∧
    (∃ t, exec .chkid (answering [.reply (.count 0)]) = .next t ∧ t.sess = .aborted) ∧
    (∃ t, exec .ldcal (answering [.reply (.count 1), .reply .fail]) = .next t ∧ t.sess = .aborted) ∧
    (∃ t, exec .rdraw (answering [.reply (.count 1), .reply .fail]) = .next t ∧ t.sess = .aborted) ∧
    ((answering [.reply (.count 0)]).sess = .opened ∧ (0 : Int) ≠ 1 ∧
      (answering [.reply (.count 0)]).bus.script = .reply (.count 0) :: []) ∧
    ((Reply.asBytes .fail).getD []).length ≠ 1 ∧ ((Reply.bytes (sample.take 7)).asBytes.getD []).length ≠ 8 ∧
    (answering [.reply (.count 1), .reply (.bytes (sample.take 7))]).bus.script =
      .reply (.count 1) :: .reply (.bytes (sample.take 7)) :: [] :=
  ⟨rfl, rfl, rfl, ⟨_, rfl, rfl⟩, ⟨_, rfl, rfl⟩, ⟨_, rfl, rfl⟩, ⟨rfl, by decide, rfl⟩, by decide, by decide, rfl⟩

theorem witness_UnpkcDecodesEveryCoefficient :
    opened.sess = .opened ∧ opened.calValid = false ∧
    ∀ j < 33, { opened with rxv := BitVec.allOnes 33 }.rxv.getLsbD j = true := by decide

/-- Exactly the eight bytes `UNPKR` needs are valid. -/
theorem witness_UnpkrAssemblesTheCounts :
    opened.sess = .opened ∧ ∀ j < 8, { opened with rxv := 0xFF }.rxv.getLsbD j = true := by decide

/-- Both clauses; one state for each missing condition. -/
theorem witness_CmptStoresCarryAndTemperature :
    (loaded.sess = .opened ∧ loaded.calValid = true ∧ loaded.rawValid = true) ∧ fresh.sess ≠ .opened ∧
    { loaded with calValid := false }.calValid = false ∧ { loaded with rawValid := false }.rawValid = false := by decide

theorem witness_CmppStoresPressure :
    (loaded.sess = .opened ∧ loaded.calValid = true ∧ loaded.rawValid = true ∧ loaded.tfValid = true) ∧
    fresh.sess ≠ .opened ∧ { loaded with calValid := false }.calValid = false ∧
    { loaded with rawValid := false }.rawValid = false ∧ { loaded with tfValid := false }.tfValid = false := by decide

theorem witness_CmphStoresHumidity :
    (loaded.sess = .opened ∧ loaded.calValid = true ∧ loaded.rawValid = true ∧ loaded.tfValid = true) ∧
    fresh.sess ≠ .opened ∧ { loaded with calValid := false }.calValid = false ∧
    { loaded with rawValid := false }.rawValid = false ∧ { loaded with tfValid := false }.tfValid = false := by decide

/-- V-T1, V-T2, and R178's example of an overflow. -/
theorem witness_TemperatureIsExactWithoutOverflow :
    (compT 519888 27504 26435 (BitVec.ofInt 16 (-1000))).ovf = false ∧
    (compT 0 27504 26435 (BitVec.ofInt 16 (-1000))).ovf = false ∧ (compT 0xFFFFF 0 32767 0).ovf = true := by decide

/-- V-P2 with a zero denominator, V-P1 without; by hand from R188 to R190: `r` too large, `r` negative. -/
theorem witness_PressureIsExactWithoutOverflow :
    (compP 415148 128422 { vectorCal with p1 := 0 }).ovf = false ∧ (compP 415148 128422 vectorCal).ovf = false ∧
    compP 0 128000 { CalFile.zero with p1 := 1 } = ⟨BitVec.ofInt 32 (2 ^ 37 * 3125 / 2 ^ 8), false, true⟩ ∧
    (compP 0xFFFFF 128000 { CalFile.zero with p1 := 0xFFFF, p7 := 0x8000 }).ovf = true := by decide

/-- V-H1, V-H2, and R194's example of an overflow. -/
theorem witness_HumidityIsExactWithoutOverflow :
    (compH 30000 128422 vectorCal).ovf = false ∧ (compH 0 128422 vectorCal).ovf = false ∧
    (compH 0 128422 { vectorCal with h4 := 2048 }).ovf = true := by decide

/-- V-P2, V-P10. -/
theorem witness_PressureGuardIsTakenOnZeroDenominator :
    { vectorCal with p1 := 0 }.p1 = 0 ∧ (compP 415148 128422 { vectorCal with p1 := 0 }).guard = true ∧
    (compP 415148 1176576 { CalFile.zero with p1 := 36477, p2 := BitVec.ofInt 16 (-32768) }).guard = true := by decide

theorem witness_RepeatedTemperatureChangesNothing :
    ∃ t, exec .cmpt loaded = .next t ∧ t.tValid = true := ⟨_, rfl, rfl⟩

theorem witness_PressureAndHumidityCommute :
    loaded.sess = .opened ∧ loaded.calValid = true ∧ loaded.rawValid = true ∧ loaded.tfValid = true := by decide

/-- The ends of s32 and of u32. -/
theorem witness_ReadoutIsCorrectlyRounded :
    (-2147483648 : Int).natAbs < 2 ^ 32 ∧ (4294967295 : Int).natAbs < 2 ^ 32 ∧ (0 : Int).natAbs < 2 ^ 32 := by decide

/-- A valid register, an invalid one, the ends of `CAL` and of `RXBUF`, and the ends of the unmapped ranges. -/
theorem witness_HostReadReturnsTheRegister :
    { loaded with hostq := [.read 0x0C (some 128422)] }.hung = false ∧
    { loaded with hostq := [.read 0x0C (some 128422)] }.hostq = .read 0x0C (some 128422) :: [] ∧ hostView 0x0C loaded = some 128422 ∧
    hostView 0x0D loaded = none ∧ hostView 0x10 loaded = some 27504 ∧
    hostView 0x12 loaded = some (BitVec.ofInt 32 (-1000)) ∧ hostView 0x21 loaded = some 30 ∧
    hostView 0x40 { loaded with rxv := 1 } = some 0 ∧ hostView 0x60 { loaded with rxv := 1 } = none ∧ hostView 0x28 loaded = some 0 ∧ hostView 0x3F loaded = some 0 ∧
    hostView 0x61 loaded = some 0 := by decide

/-- Each clause at the ends of its range. -/
theorem witness_HostWriteTakesEffectOnlyWhereAllowed :
    { fresh with hostq := [.write 0x04 5] }.hung = false ∧
    { fresh with hostq := [.write 0x04 5] }.hostq = .write 0x04 5 :: [] ∧ fresh.sess = .closed ∧
    { opened with hostq := [.write 0x60 5] }.hostq = .write 0x60 5 :: [] ∧ opened.sess = .opened ∧
    { opened with hostq := [.write 0x61 5] }.hostq = .write 0x61 5 :: [] ∧ (0x40 : Nat) ≠ 0 ∧ (0x0C : Nat) ≠ 0 := by
  decide

end Sys2Proof.Tests
end

section
/-! SUPPORT. Host registers and the recorded error (10_state.md): what each register of the map reads, what a host
write and a host read do to the state, and that only `OPEN` and reset change a recorded error. -/

namespace Sys2Proof.Machine

/-! ## The fields of `STATUS` and `ERRINFO` (R36, R37)

A field is found by passing the parts below it and cutting off the parts above it. -/

theorem statusWord_sess (s : State) : (statusWord s).extractLsb' 0 2 = sessCode s.sess :=
  (BitVec.extractLsb'_append_eq_of_add_le (by decide)).trans BitVec.extractLsb'_append_eq_right

theorem statusWord_flags (s : State) :
    (statusWord s).getLsbD 2 = s.calValid ∧ (statusWord s).getLsbD 3 = s.rawValid ∧
    (statusWord s).getLsbD 4 = s.tfValid ∧ (statusWord s).getLsbD 5 = s.tValid ∧
    (statusWord s).getLsbD 6 = s.pValid ∧ (statusWord s).getLsbD 7 = s.hValid ∧
    (statusWord s).getLsbD 8 = s.warnId ∧ (statusWord s).getLsbD 9 = s.ovf ∧
    (statusWord s).getLsbD 10 = s.pGuard ∧ (statusWord s).getLsbD 11 = s.pollTimeout ∧
    (statusWord s).getLsbD 12 = s.busHeld ∧ (statusWord s).getLsbD 13 = s.idValid := by
  simp only [statusWord, statusMid, statusLow, BitVec.getLsbD_append]
  simp

theorem statusWord_reserved_mid (s : State) : (statusWord s).extractLsb' 14 2 = 0 := by
  refine (BitVec.extractLsb'_append_eq_of_le (by decide)).trans ?_
  refine (BitVec.extractLsb'_append_eq_of_add_le (by decide)).trans ?_
  refine BitVec.eq_of_getLsbD_eq fun i hi => ?_
  simp only [statusMid, BitVec.getLsbD_extractLsb', BitVec.getLsbD_append]
  simp

theorem statusWord_err (s : State) : (statusWord s).extractLsb' 16 4 = errCodeBits s.err :=
  (BitVec.extractLsb'_append_eq_of_le (by decide)).trans
    ((BitVec.extractLsb'_append_eq_of_le (by decide)).trans BitVec.extractLsb'_append_eq_right)

theorem statusWord_reserved_high (s : State) : (statusWord s).extractLsb' 20 12 = 0 :=
  (BitVec.extractLsb'_append_eq_of_le (by decide)).trans
    ((BitVec.extractLsb'_append_eq_of_le (by decide)).trans BitVec.extractLsb'_append_eq_left)

theorem errInfoWord_errStep (s : State) : (errInfoWord s).extractLsb' 0 16 = s.errStep :=
  BitVec.extractLsb'_append_eq_right

theorem errInfoWord_err (s : State) : (errInfoWord s).extractLsb' 16 4 = errCodeBits s.err :=
  (BitVec.extractLsb'_append_eq_of_le (by decide)).trans BitVec.extractLsb'_append_eq_right

theorem errInfoWord_reserved (s : State) : (errInfoWord s).extractLsb' 20 12 = 0 :=
  (BitVec.extractLsb'_append_eq_of_le (by decide)).trans BitVec.extractLsb'_append_eq_left

/-! ## The other registers (R35, R38, R40) -/

/-- `RXVLO` is the low 32 bits of `RXV`. -/
theorem getLsbD_rxvLow (x : BitVec 33) (i : Nat) (hi : i < 32) : (x.extractLsb' 0 32).getLsbD i = x.getLsbD i := by
  simp [hi]

/-- `RXVHI` is bit 32 of `RXV` and zeros. -/
theorem getLsbD_rxvHigh (x : BitVec 33) (i : Nat) (hi : i < 32) :
    ((x.extractLsb' 32 1).setWidth 32).getLsbD i = (decide (i = 0) && x.getLsbD 32) := by
  rw [BitVec.getLsbD_setWidth, BitVec.getLsbD_extractLsb']
  cases i with
  | zero => simp
  | succ i => simp

/-- The numbers `CAL[0..17]` stand for, each by its stored type (R27). -/
def calValues (c : CalFile) : List Int :=
  [(c.t1.toNat : Int), c.t2.toInt, c.t3.toInt, c.p1.toNat, c.p2.toInt, c.p3.toInt, c.p4.toInt, c.p5.toInt, c.p6.toInt,
    c.p7.toInt, c.p8.toInt, c.p9.toInt, c.h1.toNat, c.h2.toInt, c.h3.toNat, c.h4.toInt, c.h5.toInt, c.h6.toInt]

/-- Zero extension keeps the unsigned number. -/
theorem setWidth_eq_ofInt {w : Nat} (x : BitVec w) : x.setWidth 32 = BitVec.ofInt 32 (x.toNat : Int) := by
  rw [BitVec.ofInt_natCast, BitVec.ofNat_toNat]

/-- `CAL[i]` as a host register is its number in 32 bits. -/
theorem calWord_of_value {c : CalFile} {i : Nat} {x : Int} (h : (calValues c)[i]? = some x) :
    i < 18 ∧ calWord i c = BitVec.ofInt 32 x := by
  have hi : i < 18 := (List.getElem?_eq_some_iff.mp h).1
  refine ⟨hi, ?_⟩
  interval_cases i <;> obtain rfl := Option.some.inj h <;> simp only [calWord, BitVec.signExtend, setWidth_eq_ofInt]

theorem hostView_cal (s : State) {i : Nat} (hi : i < 18) :
    hostView (0x10 + i) s = guarded s.calValid (calWord i s.cal) := by
  rw [hostView, if_neg (by omega), if_pos (by omega), Nat.add_sub_cancel_left]

theorem hostView_rxbuf (s : State) {i : Nat} (hi : i < 33) :
    hostView (0x40 + i) s = guarded (s.rxv.getLsbD i) (s.rxbuf[i].setWidth 32) := by
  have hr : rxIndex (0x40 + i) = true := by simp [rxIndex]; omega
  have hb : rxByte s.rxbuf i = s.rxbuf[i] := by simp [rxByte, hi]
  rw [hostView, if_neg (by omega), if_neg (by omega), if_neg (by omega), if_pos hr, Nat.add_sub_cancel_left, hb]

/-- An index outside the map reads 0 (R40). -/
theorem hostView_unmapped (s : State) {n : Nat} (hn : (0x28 ≤ n ∧ n ≤ 0x3F) ∨ 0x61 ≤ n) : hostView n s = some 0 := by
  have hr : ¬rxIndex n = true := by simp [rxIndex]; omega
  rw [hostView, if_neg (by omega), if_neg (by omega), if_neg (by omega), if_neg hr]

/-- The queue of host actions is in no register. -/
theorem hostView_hostq (n : Nat) (s : State) (q : List HostAction) :
    hostView n { s with hostq := q } = hostView n s := rfl

/-! ## Host writes (R39, R40) -/

/-- One byte put into the receive buffer, and its valid bit. -/
theorem putBytes_singleton (k : Nat) (b : Byte) (s : State) :
    putBytes k [b] s = { s with rxbuf := s.rxbuf.setIfInBounds k b, rxv := s.rxv ||| (1#33 <<< k) } := by
  have hm : rangeMask k 1 = 1#33 <<< k := by simp [rangeMask, ← BitVec.toNat_inj]
  rw [putBytes, List.length_singleton, hm]
  rfl

/-- A host register write, register by register. -/
theorem hostWrite_eq (n : Nat) (v : Word) (s : State) :
    hostWrite n v s =
      if n = 0x04 ∧ s.sess = .closed then { s with devSel := v }
      else if n = 0x0C ∧ s.sess = .opened then { s with tFine := v, tfValid := true }
      else if 0x40 ≤ n ∧ n ≤ 0x60 ∧ s.sess = .opened then putBytes (n - 0x40) [v.setWidth 8] s
      else s := by
  unfold hostWrite
  by_cases h4 : n = 0x04
  · subst h4
    simp
  · by_cases hC : n = 0x0C
    · subst hC
      simp
    · simp only [h4, hC, rxIndex, false_and, if_false, Bool.and_eq_true, decide_eq_true_eq, ← and_assoc, ite_and]

/-! ## Reset (R44, R45) -/

theorem clearSession_sessionClear (s : State) : (clearSession s).sessionClear :=
  ⟨rfl, rfl, rfl, rfl, rfl, rfl, rfl, rfl, rfl, rfl, rfl, rfl, rfl⟩

theorem blockReset_sessionClear (s : State) : (blockReset s).sessionClear := clearSession_sessionClear s

theorem reset_sessionClear : State.reset.sessionClear :=
  ⟨rfl, rfl, rfl, rfl, rfl, rfl, rfl, rfl, rfl, rfl, rfl, rfl, rfl⟩

/-! ## Every way a stretch of pseudocode can end -/

/-- However the stretch ends, its last state meets `P`. -/
def Run.EndsIn {α : Type} (r : Run α) (P : State → Prop) : Prop := r.Post (fun _ t => P t) (fun _ _ t => P t) P

/-- A condition that each of two stretches carries from its start to its ends is carried by the two in a row. -/
theorem Run.EndsIn.bind {α β : Type} {r : Run α} {f : α → State → Run β} {P : State → Prop} (hr : r.EndsIn P)
    (hf : ∀ a t, P t → (f a t).EndsIn P) : (r.bind f).EndsIn P :=
  (Run.post_bind r f _ _ _).mpr (Run.Post.mono hr hf (fun _ _ _ h => h) fun _ h => h)

/-! ## The recorded error (R23) -/

/-- `ERR`, `ERRCMD` and `ERRSTEP` of `t` are those of `s`. -/
def KeepsError (s t : State) : Prop := t.err = s.err ∧ t.errCmd = s.errCmd ∧ t.errStep = s.errStep

theorem KeepsError.refl (s : State) : KeepsError s s := ⟨rfl, rfl, rfl⟩

theorem KeepsError.trans {s t u : State} (h : KeepsError s t) (h' : KeepsError t u) : KeepsError s u :=
  ⟨h'.1.trans h.1, h'.2.1.trans h.2.1, h'.2.2.trans h.2.2⟩

/-- Transport calls record no error. -/
theorem BusOnly.keepsError {s t : State} (h : BusOnly s t) : KeepsError s t := by
  rw [h]
  exact ⟨rfl, rfl, rfl⟩

/-- A further error changes nothing of the one recorded (60_exceptions.md R222). -/
theorem fail_keepsError {s : State} (hs : s.err ≠ .clear) (e : ErrCode) (n : BitVec 16) : KeepsError s (fail e n s) := by
  rw [fail_eq]
  exact ⟨if_neg hs, if_neg hs, if_neg hs⟩

theorem endSession_keepsError (s : State) : KeepsError s (endSession s) := by
  unfold endSession releaseBus
  split <;> exact ⟨rfl, rfl, rfl⟩

theorem hostWrite_keepsError (n : Nat) (v : Word) (s : State) : KeepsError s (hostWrite n v s) := by
  obtain h | ⟨-, h⟩ | ⟨-, h⟩ | ⟨-, h⟩ := hostWrite_cases n v s <;> rw [h] <;> exact ⟨rfl, rfl, rfl⟩

theorem hostRead_keepsError (n : Nat) (e : Option Word) (s : State) : KeepsError s (hostRead n e s) := by
  obtain ⟨v, d, h, -⟩ := hostRead_eq n e s
  rw [h]
  exact ⟨rfl, rfl, rfl⟩

section
variable {s t : State}

theorem devWrite1_keepsError (step : Nat) (a v : Byte) (h : KeepsError s t) :
    (devWrite1 step a v t).EndsIn (KeepsError s) := by
  refine (devWrite1_post step a v t).mono ?_ ?_ ?_
  · rintro - u ⟨hb, -⟩
    exact h.trans hb.keepsError
  · rintro - - u ⟨-, -, hb, -⟩
    exact h.trans hb.keepsError
  · rintro u ⟨hb, -⟩
    exact h.trans hb.keepsError

theorem burstInto_keepsError (step : Nat) (a : Byte) (n k : Nat) (h : KeepsError s t) :
    (burstInto step a n k t).EndsIn (KeepsError s) := by
  refine (burstInto_post step a n k t).mono ?_ ?_ ?_
  · rintro - - ⟨-, r, u, -, ⟨hb, -⟩, rfl⟩
    exact h.trans hb.keepsError
  · rintro - - - ⟨-, u, rfl, ⟨-, c, -, hb, -⟩ | ⟨-, r, -, hb, -⟩⟩
    · exact h.trans hb.keepsError
    · exact h.trans hb.keepsError
  · rintro u ⟨-, ⟨hb, -⟩ | ⟨hb, -⟩⟩
    · exact h.trans hb.keepsError
    · exact h.trans hb.keepsError

theorem pollLoop_keepsError (fuel i : Nat) (h : KeepsError s t) : (pollLoop fuel i t).EndsIn (KeepsError s) := by
  induction fuel generalizing i t with
  | zero => exact h
  | succ fuel ih =>
    refine (burstInto_keepsError _ _ _ _ h).bind fun bs u hu => ?_
    split
    · exact ih _ hu
    · exact hu

end

/-- No command but `OPEN` changes a recorded error before its end, whatever answers it. -/
theorem bodyOf_keepsError {i : Instr} (hi : i ≠ .openSession) (s : State) : (bodyOf i s).EndsIn (KeepsError s) := by
  have hs := KeepsError.refl s
  cases i with
  | nop => exact hs
  | openSession => exact absurd rfl hi
  | closeSession => exact endSession_keepsError s
  | wr1 a v => exact devWrite1_keepsError _ _ _ hs
  | rd1 a => exact (burstInto_keepsError _ _ _ _ hs).bind fun _ _ h => h
  | brd a n k => exact (burstInto_keepsError _ _ _ _ hs).bind fun _ _ h => h
  | chkid => exact (burstInto_keepsError _ _ _ _ hs).bind fun _ _ h => h
  | ldcal =>
    exact (burstInto_keepsError _ _ _ _ hs).bind fun _ _ h => (burstInto_keepsError _ _ _ _ h).bind fun _ _ h' => h'
  | cfg =>
    exact (devWrite1_keepsError _ _ _ hs).bind fun _ _ h =>
      (devWrite1_keepsError _ _ _ h).bind fun _ _ h' => devWrite1_keepsError _ _ _ h'
  | poll => exact pollLoop_keepsError _ _ hs
  | rdraw => exact (burstInto_keepsError _ _ _ _ hs).bind fun _ _ h => h
  | unpkc => exact hs
  | unpkr => exact hs
  | cmpt => exact hs
  | cmpp => exact hs
  | cmph => exact hs

/-- A command keeps a recorded error, but for an `OPEN` that the session allows. -/
theorem exec_keepsError {i : Instr} {s t : State} (hs : s.err ≠ .clear) (h : exec i s = .next t) :
    KeepsError s t ∨ (i = .openSession ∧ s.sess = .closed) := by
  obtain ⟨-, he⟩ | ⟨ha, -, he⟩ := exec_cases i s
  · obtain rfl := Host.Outcome.next.inj (he.symm.trans h)
    exact .inl (fail_keepsError hs _ _)
  · obtain rfl := Host.Outcome.next.inj (he.symm.trans h)
    by_cases hi : i = .openSession
    · subst hi
      exact .inr ⟨rfl, of_decide_eq_true ha⟩
    · refine .inl (settle_of_post (bodyOf_keepsError hi s) (fun _ hu => hu) (fun e n u hu => ?_) fun _ hu => hu)
      exact hu.trans (fail_keepsError (hu.1.symm ▸ hs) _ _)

/-! ## A legal word is the encoding of its command (30_encoding.md R91, R92) -/

/-- A row of format Z accepts only the word made of its opcode and zeros. -/
theorem encode_of_formatZ {op a n k : Byte} {i j : Instr} (h : formatZ a n k i = .ok j)
    (hi : encode i = packWord i.op 0 0 0) (hop : op.toNat = i.op.toNat) : encode j = packWord op a n k := by
  obtain ⟨rfl, rfl, rfl, rfl⟩ := formatZ_ok h
  rw [hi, BitVec.eq_of_toNat_eq hop]

theorem encode_of_decodeFields {op a n k : Byte} {i : Instr} (h : decodeFields op a n k = .ok i) :
    encode i = packWord op a n k := by
  unfold decodeFields at h
  split at h
  case h_4 hop =>
    obtain ⟨rfl, rfl⟩ := formatW_ok h
    rw [show op = 0x10#8 from BitVec.eq_of_toNat_eq hop]
    rfl
  case h_5 hop =>
    obtain ⟨rfl, rfl, rfl⟩ := formatR_ok h
    rw [show op = 0x11#8 from BitVec.eq_of_toNat_eq hop]
    rfl
  case h_6 hop =>
    obtain ⟨-, rfl⟩ := formatB_ok h
    rw [show op = 0x12#8 from BitVec.eq_of_toNat_eq hop]
    rfl
  case h_17 => exact nomatch h
  all_goals exact encode_of_formatZ h rfl ‹_›

theorem encode_of_decode {w : Word} {i : Instr} (h : decode w = .ok i) : encode i = w :=
  (encode_of_decodeFields h).trans (pack_fields w)

/-! ## The obligations -/

/-- Settles O15: outside a session nothing is valid, and the parameters meet the launch premises. -/
theorem resetMeetsTheInvariant : Obligations.ResetMeetsTheInvariant where
  cfgWf := params_wf
  memWf := nofun
  closedBus _ := rfl
  openedErr := nofun
  abortedErr := nofun
  clearErr _ := ⟨rfl, rfl⟩
  closedClear _ := reset_sessionClear
  tNeeds := nofun
  pNeeds := nofun
  hNeeds := nofun
  warnNeeds := nofun
  idMatches := nofun
  hRange := nofun
  guardZero := nofun
  calPacked := nofun
  pollBound := Nat.zero_le _
  pollTimedOut := nofun

/-- Settles O21: the step is `blockReset`. -/
theorem resetLeavesTheTablesValues : Obligations.ResetLeavesTheTablesValues := by
  refine ⟨fun s rest hh hq => ⟨blockReset { s with hostq := rest }, step_of_action hh hq, ?_⟩, ?_⟩
  · exact ⟨rfl, rfl, rfl, rfl, rfl, blockReset_sessionClear _, rfl, rfl, rfl, rfl, rfl, rfl, rfl⟩
  · exact ⟨rfl, rfl, rfl, rfl, rfl, reset_sessionClear, rfl, rfl, rfl⟩

/-- Settles O58, field by field. -/
theorem statusHoldsItsFields : Obligations.StatusHoldsItsFields := by
  intro s
  obtain ⟨h2, h3, h4, h5, h6, h7, h8, h9, h10, h11, h12, h13⟩ := statusWord_flags s
  exact ⟨rfl, statusWord_sess s, h2, h3, h4, h5, h6, h7, h8, h9, h10, h11, h12, h13, statusWord_reserved_mid s,
    statusWord_err s, statusWord_reserved_high s, rfl, rfl, rfl, rfl, rfl, rfl, rfl, rfl⟩

/-- Settles O60: the step is `hostWrite`, which does not read the queue. -/
theorem hostWriteTakesEffectOnlyWhereAllowed : Obligations.HostWriteTakesEffectOnlyWhereAllowed := by
  intro s n v rest hh hq hn
  rw [step_of_action hh hq, hostAct, if_neg hn, hostWrite_eq, putBytes_singleton]

/-- Settles O11: of a step's forms only reset and an accepted `OPEN` do not keep the error. -/
theorem recordedErrorIsKeptUntilOpenOrReset : Obligations.RecordedErrorIsKeptUntilOpenOrReset := by
  intro s t hs h
  obtain ⟨-, ⟨-, rfl⟩ | ⟨w, rest, hw, ⟨e, -, rfl⟩ | ⟨i, hd, he⟩⟩ | ⟨w, rest, -, -, rfl⟩ | ⟨n, v, rest, -, -, rfl⟩ |
    ⟨n, e, rest, -, rfl⟩ | ⟨rest, hq, -⟩⟩ := step_cases h
  · exact .inl ⟨rfl, rfl, rfl⟩
  · exact .inl (fail_keepsError (s := { s with hostq := rest, lastCmd := w }) hs _ _)
  · obtain hk | ⟨rfl, hc⟩ := exec_keepsError (s := { s with hostq := rest, lastCmd := w }) hs he
    · exact .inl hk
    · obtain rfl : 0x01000000#32 = w := encode_of_decode hd
      exact .inr (.inr ⟨hc, rest, hw⟩)
  · exact .inl ⟨rfl, rfl, rfl⟩
  · exact .inl (hostWrite_keepsError n v { s with hostq := rest })
  · exact .inl (hostRead_keepsError n e { s with hostq := rest })
  · exact .inr (.inl ⟨rest, hq⟩)

/-- Settles O59: a narrow register is extended to 32 bits, every other one is its view as it stands, and the step is
`hostRead`. -/
theorem hostReadReturnsTheRegister : Obligations.HostReadReturnsTheRegister := by
  refine ⟨fun s => ⟨rfl, ⟨_, rfl, errInfoWord_errStep s, errInfoWord_err s, errInfoWord_reserved s⟩, rfl, rfl,
    ?pollCnt, ?chipId, ⟨_, _, rfl, rfl, getLsbD_rxvLow s.rxv, getLsbD_rxvHigh s.rxv⟩, ?adcP, ?adcT, ?adcH,
    rfl, rfl, rfl, rfl, ?cal, rfl, rfl, rfl, rfl, rfl, rfl, ?rxbuf⟩, ?read⟩
  case cal =>
    intro i x hx
    obtain ⟨hi, hw⟩ := calWord_of_value (c := s.cal) hx
    rw [hostView_cal s hi, hw]
    rfl
  case rxbuf =>
    intro i hi
    rw [hostView_rxbuf s hi, BitVec.ofNat_toNat]
    rfl
  case read =>
    intro s n expected rest hh hq
    obtain ⟨v, d, hr, hv⟩ := hostRead_eq n expected { s with hostq := rest }
    rw [hostView_hostq] at hv
    refine ⟨v, d, ?_, hv, fun hn => hv 0 (hostView_unmapped s hn)⟩
    rw [step_of_action hh hq, hostAct, hr]
  all_goals
    rw [BitVec.ofNat_toNat]
    rfl

end Sys2Proof.Machine
end

section
/-! SUPPORT. The transport and its history (20_memory.md): the memory of the reference device is determined by what it
reads, the micro-operations as the reference device answers them, and that a step only appends to the event history and
to what the host has read. -/

namespace Sys2Proof.Machine

/-! ## A canonical memory is determined by what it reads (R68) -/

theorem Memory.wfFrom_cons {lo x : Nat} {b : Byte} {m : Memory} :
    Memory.wfFrom lo ((x, b) :: m) = true ↔
      lo ≤ x ∧ x < 256 ∧ b ≠ Memory.unlisted ∧ Memory.wfFrom (x + 1) m = true := by
  simp [Memory.wfFrom, and_assoc]

theorem Memory.get_cons_self (x : Nat) (b : Byte) (m : Memory) : Memory.get ((x, b) :: m) x = b := if_pos rfl

theorem Memory.get_cons_of_ne {x a : Nat} (h : x ≠ a) (b : Byte) (m : Memory) :
    Memory.get ((x, b) :: m) a = Memory.get m a := if_neg h

/-- A memory whose entries all lie above another one's first address reads differently there. -/
theorem Memory.get_ne_of_first_lt {lo lo' x : Nat} {b : Byte} {m m' : Memory}
    (h : Memory.wfFrom lo ((x, b) :: m) = true) (h' : Memory.wfFrom lo' m' = true) (hx : x < lo') :
    Memory.get ((x, b) :: m) x ≠ Memory.get m' x := by
  obtain ⟨-, -, hb, -⟩ := Memory.wfFrom_cons.mp h
  rwa [Memory.get_cons_self, Memory.get_below h' hx]

/-- Entry by entry: the first addresses agree, for the lower one would read differently, and so do their bytes; the
tails then read the same, above the first address as the whole lists do and elsewhere as unlisted. -/
theorem Memory.eq_of_get_eq {lo : Nat} {m m' : Memory} (h : Memory.wfFrom lo m = true)
    (h' : Memory.wfFrom lo m' = true) (hg : ∀ a < 256, Memory.get m a = Memory.get m' a) : m = m' := by
  induction m generalizing lo m' with
  | nil =>
    cases m' with
    | nil => rfl
    | cons c' m' =>
      obtain ⟨-, hx', -, -⟩ := Memory.wfFrom_cons.mp h'
      exact absurd (hg c'.1 hx').symm (Memory.get_ne_of_first_lt (lo' := c'.1 + 1) h' rfl (Nat.lt_succ_self _))
  | cons c m ih =>
    obtain ⟨x, b⟩ := c
    obtain ⟨hlo, hx, hb, hm⟩ := Memory.wfFrom_cons.mp h
    cases m' with
    | nil => exact absurd (hg x hx) (Memory.get_ne_of_first_lt (lo' := x + 1) h rfl (Nat.lt_succ_self _))
    | cons c' m' =>
      obtain ⟨x', b'⟩ := c'
      obtain ⟨hlo', hx', hb', hm'⟩ := Memory.wfFrom_cons.mp h'
      obtain hlt | rfl | hlt := lt_trichotomy x x'
      · have hfrom := Memory.wfFrom_cons.mpr ⟨le_refl x', hx', hb', hm'⟩
        exact absurd (hg x hx) (Memory.get_ne_of_first_lt h hfrom hlt)
      · have hbb : b = b' := by simpa only [Memory.get_cons_self] using hg x hx
        have htail : ∀ a < 256, Memory.get m a = Memory.get m' a := by
          intro a ha
          by_cases hax : x < a
          · simpa only [Memory.get_cons_of_ne hax.ne] using hg a ha
          · rw [Memory.get_below hm (by omega), Memory.get_below hm' (by omega)]
        rw [hbb, ih hm hm' htail]
      · have hfrom := Memory.wfFrom_cons.mpr ⟨le_refl x, hx, hb, hm⟩
        exact absurd (hg x' hx').symm (Memory.get_ne_of_first_lt h' hfrom hlt)

/-! ## The micro-operations answered by the reference device (R65, R66, R68) -/

@[simp] theorem Memory.readWrapped_length (m : Memory) (a n : Nat) : (Memory.readWrapped m a n).length = n := by
  simp [Memory.readWrapped]

theorem Memory.readWrapped_getElem (m : Memory) (a n i : Nat) (hi : i < (Memory.readWrapped m a n).length) :
    (Memory.readWrapped m a n)[i] = Memory.get m ((a + i) % 256) := by
  simp [Memory.readWrapped]

/-- `s` after calls that the reference device answered with nothing scripted: the calls are the events `es`, the device
is left as `d`, and nothing else changed. -/
def State.answeredBy (s : State) (d : RefDevice) (es : List Event) : State :=
  { s with bus := { script := [], device := some d, history := s.bus.history ++ es } }

section
variable {s : State} {d : RefDevice}

theorem devWrite1_of_device (step : Nat) (a v : Byte) (hs : s.bus.script = []) (hd : s.bus.device = some d) :
    devWrite1 step a v s = .ok ()
      (s.answeredBy { d with reg := Memory.set d.reg a.toNat v, ptr := a + 1 } [.tWrite [a, v] 2]) := by
  rw [devWrite1, tWrite, ask_of_device _ _ _ _ hs hd]
  rfl

theorem devBurst_of_device (step : Nat) (a : Byte) (n : Nat) (hs : s.bus.script = []) (hd : s.bus.device = some d) :
    devBurst step a n s = .ok (Memory.readWrapped d.reg a.toNat n)
      (s.answeredBy { d with ptr := a + BitVec.ofNat 8 n } (burstEvents a (Memory.readWrapped d.reg a.toNat n))) := by
  rw [devBurst, tWrite, ask_of_device _ _ _ _ hs hd]
  simp only [Run.ok_bind, deviceWrite, if_true]
  rw [tRead, ask_of_device _ _ _ _ rfl rfl]
  simp only [Run.ok_bind, deviceRead, Option.getD_some, Memory.readWrapped_length, if_true, List.append_assoc,
    burstEvents, State.answeredBy]
  rfl

/-- `BRD a, n, k` answered by the reference device, its bytes put into the receive buffer (41_transport.md R122). -/
theorem brdBody_of_device (a : Byte) (n k : Nat) (hs : s.bus.script = []) (hd : s.bus.device = some d) :
    brdBody a n k s = .ok () (putBytes k (Memory.readWrapped d.reg a.toNat n)
      (s.answeredBy { d with ptr := a + BitVec.ofNat 8 n } (burstEvents a (Memory.readWrapped d.reg a.toNat n)))) := by
  rw [brdBody, burstInto, devBurst_of_device 0 a n hs hd]
  rfl

end

/-! ## A step only appends (R64, R74) -/

/-- From `s` to `t` the parameters are kept and nothing recorded, in the event history or of the host's reads, is lost. -/
def Extends (s t : State) : Prop := t.cfg = s.cfg ∧ s.bus.history <+: t.bus.history ∧ s.reads <+: t.reads

theorem Extends.refl (s : State) : Extends s s := ⟨rfl, List.prefix_rfl, List.prefix_rfl⟩

theorem Extends.trans {s t u : State} (h : Extends s t) (h' : Extends t u) : Extends s u :=
  ⟨h'.1.trans h.1, h.2.1.trans h'.2.1, h.2.2.trans h'.2.2⟩

/-- Transport calls append their events. -/
theorem BusOnly.extends {es : List Event} {s t : State} (h : BusOnly s t)
    (hh : t.bus.history = s.bus.history ++ es) : Extends s t := by
  refine ⟨?_, hh ▸ List.prefix_append _ _, ?_⟩
  · rw [h]
  · rw [h]

theorem CallsOnly.extends {es : List Event} {s t : State} (h : CallsOnly es s t) : Extends s t := h.1.extends h.2.1

theorem recordEvent_extends (e : Event) (s : State) : Extends s (recordEvent e s) :=
  ⟨rfl, List.prefix_append _ _, List.prefix_rfl⟩

theorem fail_extends (e : ErrCode) (n : BitVec 16) (s : State) : Extends s (fail e n s) := by
  rw [fail_eq]
  exact Extends.refl s

theorem endSession_extends (s : State) : Extends s (endSession s) := by
  unfold endSession releaseBus
  split
  · exact recordEvent_extends .busClose s
  · exact Extends.refl s

theorem hostWrite_extends (n : Nat) (v : Word) (s : State) : Extends s (hostWrite n v s) := by
  obtain h | ⟨-, h⟩ | ⟨-, h⟩ | ⟨-, h⟩ := hostWrite_cases n v s <;> rw [h] <;> exact Extends.refl s

theorem hostRead_extends (n : Nat) (e : Option Word) (s : State) : Extends s (hostRead n e s) := by
  obtain ⟨v, d, h, -⟩ := hostRead_eq n e s
  rw [h]
  exact ⟨rfl, List.prefix_rfl, List.prefix_append _ _⟩

section
variable {s t : State}

/-- A transport call, whatever answers it. -/
theorem ask_extends {α : Type} (ofReply : Reply → α) (dev : RefDevice → α × RefDevice) (free : Nat → α)
    (event : α → Event) (hdev : ∀ d : RefDevice, d.reg.wf = true → (dev d).2.reg.wf = true) (h : Extends s t) :
    (ask ofReply dev free event t).EndsIn (Extends s) :=
  (ask_post ofReply dev free event hdev t).mono (fun _ _ ⟨hb, hh, _⟩ => h.trans (hb.extends hh)) (fun _ _ _ h => h.elim)
    fun _ ⟨hb, hh, _⟩ => h.trans (hb.extends (es := []) (by rw [hh, List.append_nil]))

theorem openBody_extends (s : State) : (openBody s).EndsIn (Extends s) := by
  refine (ask_extends (t := startSession s) _ _ _ _ (fun _ h => h) (Extends.refl s)).bind fun r0 t ht => ?_
  cases r0 with
  | false => exact ht
  | true =>
    refine (ask_extends (t := { t with busHeld := true }) _ _ _ _ (fun _ h => h) ht).bind fun r1 u hu => ?_
    cases r1 with
    | false => exact hu
    | true => exact hu

theorem devWrite1_extends (step : Nat) (a v : Byte) (h : Extends s t) : (devWrite1 step a v t).EndsIn (Extends s) := by
  refine (devWrite1_post step a v t).mono ?_ ?_ ?_
  · rintro - u ⟨hb, hh, -⟩
    exact h.trans (hb.extends hh)
  · rintro - - u ⟨-, -, hb, -, -, c, -, hh⟩
    exact h.trans (hb.extends hh)
  · rintro u ⟨hb, hh, -⟩
    exact h.trans (hb.extends (es := []) (by rw [hh, List.append_nil]))

theorem burstInto_extends (step : Nat) (a : Byte) (n k : Nat) (h : Extends s t) :
    (burstInto step a n k t).EndsIn (Extends s) := by
  refine (burstInto_post step a n k t).mono ?_ ?_ ?_
  · rintro - - ⟨-, r, u, -, hc, rfl⟩
    exact h.trans hc.extends
  · rintro - - - ⟨-, u, rfl, ⟨-, c, -, hc⟩ | ⟨-, r, -, hc⟩⟩
    · exact h.trans hc.extends
    · exact h.trans hc.extends
  · rintro u ⟨-, hc | hc⟩
    · exact h.trans hc.extends
    · exact h.trans hc.extends

theorem pollLoop_extends (fuel i : Nat) (h : Extends s t) : (pollLoop fuel i t).EndsIn (Extends s) := by
  induction fuel generalizing i t with
  | zero => exact h
  | succ fuel ih =>
    refine (burstInto_extends _ _ _ _ h).bind fun bs u hu => ?_
    split
    · exact ih _ (hu.trans (recordEvent_extends _ _))
    · exact hu

end

/-- However a command's pseudocode ends, what was recorded before it is still there. -/
theorem bodyOf_extends (i : Instr) (s : State) : (bodyOf i s).EndsIn (Extends s) := by
  have hs := Extends.refl s
  cases i with
  | nop => exact hs
  | openSession => exact openBody_extends s
  | closeSession => exact endSession_extends s
  | wr1 a v => exact devWrite1_extends _ _ _ hs
  | rd1 a => exact (burstInto_extends _ _ _ _ hs).bind fun _ _ h => h
  | brd a n k => exact (burstInto_extends _ _ _ _ hs).bind fun _ _ h => h
  | chkid => exact (burstInto_extends _ _ _ _ hs).bind fun _ _ h => h
  | ldcal => exact (burstInto_extends _ _ _ _ hs).bind fun _ _ h => (burstInto_extends _ _ _ _ h).bind fun _ _ h' => h'
  | cfg =>
    exact (devWrite1_extends _ _ _ hs).bind fun _ _ h =>
      (devWrite1_extends _ _ _ h).bind fun _ _ h' => devWrite1_extends _ _ _ h'
  | poll => exact pollLoop_extends _ _ (recordEvent_extends _ _)
  | rdraw => exact (burstInto_extends _ _ _ _ hs).bind fun _ _ h => h
  | unpkc => exact hs
  | unpkr => exact hs
  | cmpt => exact hs
  | cmpp => exact hs
  | cmph => exact hs

theorem exec_extends {i : Instr} {s t : State} (h : exec i s = .next t) : Extends s t := by
  obtain ⟨-, he⟩ | ⟨-, -, he⟩ := exec_cases i s
  · obtain rfl := Host.Outcome.next.inj (he.symm.trans h)
    exact fail_extends _ _ s
  · obtain rfl := Host.Outcome.next.inj (he.symm.trans h)
    exact settle_of_post (bodyOf_extends i s) (fun _ hu => hu) (fun _ _ u hu => hu.trans (fail_extends _ _ u))
      fun _ hu => hu

/-! ## The obligations -/

/-- Settles O14: every form of a step extends what was recorded. -/
theorem stepOnlyAppendsToHistory : Obligations.StepOnlyAppendsToHistory := by
  intro s t h
  obtain ⟨-, ⟨-, rfl⟩ | ⟨w, rest, -, ⟨e, -, rfl⟩ | ⟨i, -, he⟩⟩ | ⟨w, rest, -, -, rfl⟩ | ⟨n, v, rest, -, -, rfl⟩ |
    ⟨n, e, rest, -, rfl⟩ | ⟨rest, -, rfl⟩⟩ := step_cases h
  · exact Extends.refl _
  · exact fail_extends _ _ { s with hostq := rest, lastCmd := w }
  · exact exec_extends (s := { s with hostq := rest, lastCmd := w }) he
  · exact Extends.refl s
  · exact hostWrite_extends n v { s with hostq := rest }
  · exact hostRead_extends n e { s with hostq := rest }
  · exact Extends.refl s

/-- Settles O28: each command is allowed, and its body is the one the reference device answers. -/
theorem referenceDeviceIsWrittenAndRead : Obligations.ReferenceDeviceIsWrittenAndRead := by
  intro s d ho hs hd hm
  refine ⟨fun a v => ?write, fun a n k _ => ?read⟩
  case write =>
    have he := exec_of_allowed (i := .wr1 a v) (s := s) (by rw [ho]; rfl) rfl
    rw [bodyOf, devWrite1_of_device 0 a v hs hd] at he
    exact ⟨_, _, he, rfl, Memory.set_wf v hm a.isLt, rfl, ho, rfl, fun x => Memory.get_set hm a.toNat x v⟩
  case read =>
    have he := exec_of_allowed (i := .brd a n k) (s := s) (by rw [ho]; rfl) rfl
    rw [bodyOf, brdBody_of_device a n.toNat k.toNat hs hd] at he
    refine ⟨_, he, rfl, fun i hi hin => ?_⟩
    have hr : k.toNat ≤ k.toNat + i ∧ k.toNat + i < k.toNat + (Memory.readWrapped d.reg a.toNat n.toNat).length := by
      rw [Memory.readWrapped_length]
      omega
    refine (writeBytes_getElem _ _ _ _ hi).trans ?_
    rw [dif_pos hr, Memory.readWrapped_getElem, Nat.add_sub_cancel_left]

/-- Settles O29: `wf` is the canonical form from address 0 on. -/
theorem canonicalMemoriesAreEqualWhenTheyReadEqual : Obligations.CanonicalMemoriesAreEqualWhenTheyReadEqual :=
  fun _ _ h h' hg => Memory.eq_of_get_eq h h' hg

end Sys2Proof.Machine
end

section
/-! SUPPORT. The words of the encoder are the decoder's words and the opcode table's words (30_encoding.md R90 to R95),
and the obligations about the encoding. -/

namespace Sys2Proof

/-! ## The encoder under the decoder -/

/-- The decoder gives a command back from its word, and refuses the word only for the bounds of R94. -/
theorem decode_encode (i : Instr) : decode (encode i) = if i.wf then .ok i else .error .brdOutOfBounds := by
  cases i with
  | wr1 a v => exact decode_pack 0x10 a 0 v
  | rd1 a => exact decode_pack 0x11 a 0 0
  | brd a n k => exact decode_pack 0x12 a n k
  | nop | openSession | closeSession | chkid | ldcal | cfg | poll | rdraw | unpkc | unpkr | cmpt | cmpp | cmph =>
    exact decode_pack _ 0 0 0

theorem decode_encode_ok_iff (i : Instr) : decode (encode i) = .ok i ↔ i.wf = true := by
  rw [decode_encode]
  split <;> simp [*]

/-- The legal words are the encodings of the well-formed commands. -/
theorem decode_ok_iff (w : Word) (i : Instr) : decode w = .ok i ↔ i.wf = true ∧ encode i = w := by
  constructor
  · intro h
    obtain rfl := Machine.encode_of_decode h
    exact ⟨(decode_encode_ok_iff i).mp h, rfl⟩
  · rintro ⟨h, rfl⟩
    exact (decode_encode_ok_iff i).mpr h

/-! ## The fields of a word a row selects -/

theorem OpcodeRow.selects_iff (r : OpcodeRow) (w : Word) : r.selects w = true ↔ w &&& r.mask = r.bits :=
  decide_eq_true_iff

/-- A byte of a word that the row's mask covers is the row's. -/
theorem byte_of_selects {r : OpcodeRow} {w : Word} (h : r.selects w = true) (i : Nat)
    (hm : r.mask.extractLsb' i 8 = BitVec.allOnes 8) : w.extractLsb' i 8 = r.bits.extractLsb' i 8 := by
  rw [← (OpcodeRow.selects_iff r w).mp h, BitVec.extractLsb'_and, hm, BitVec.and_allOnes]

/-- Every row's mask covers `OP`. -/
theorem opcodeTable_mask_op : ∀ r ∈ opcodeTable, fieldOp r.mask = BitVec.allOnes 8 := by decide

/-- The opcode of a word is that of the row that selects it. -/
theorem fieldOp_of_selects {r : OpcodeRow} {w : Word} (hr : r ∈ opcodeTable) (h : r.selects w = true) :
    fieldOp w = fieldOp r.bits :=
  byte_of_selects h 24 (opcodeTable_mask_op r hr)

/-! ## The rows of the table (R92) -/

/-- The rows' opcodes are distinct. -/
theorem opcodeTable_op_inj :
    ∀ r ∈ opcodeTable, ∀ r' ∈ opcodeTable, fieldOp r.bits = fieldOp r'.bits → r = r' := by decide

/-- The commands without operands: format Z of R91. -/
def formatZCommands : List Instr :=
  [.nop, .openSession, .closeSession, .chkid, .ldcal, .cfg, .poll, .rdraw, .unpkc, .unpkr, .cmpt, .cmpp, .cmph]

/-- A row of format Z fixes the whole word of its command; the other three rows are those of formats W, R and B. -/
theorem opcodeTable_formats : ∀ r ∈ opcodeTable,
    (r.mask = BitVec.allOnes 32 ∧ ∃ i ∈ formatZCommands, encode i = r.bits) ∨ r = ⟨0x10000000#32, 0xFF00FF00#32⟩ ∨
      r = ⟨0x11000000#32, 0xFF00FFFF#32⟩ ∨ r = ⟨0x12000000#32, 0xFF000000#32⟩ := by decide

/-- A word that a row selects is the word of a command, in or out of the bounds of R94. -/
theorem exists_encode_of_selects {r : OpcodeRow} {w : Word} (hr : r ∈ opcodeTable) (h : r.selects w = true) :
    ∃ i, encode i = w := by
  have hw := pack_fields w
  have hop : fieldOp w = fieldOp r.bits := fieldOp_of_selects hr h
  obtain ⟨hm, i, -, hi⟩ | rfl | rfl | rfl := opcodeTable_formats r hr
  · rw [OpcodeRow.selects_iff, hm, BitVec.and_allOnes] at h
    exact ⟨i, hi.trans h.symm⟩
  · have hn : fieldN w = 0 := byte_of_selects h 8 rfl
    rw [hop, hn] at hw
    exact ⟨.wr1 (fieldA w) (fieldK w), hw⟩
  · have hn : fieldN w = 0 := byte_of_selects h 8 rfl
    have hk : fieldK w = 0 := byte_of_selects h 0 rfl
    rw [hop, hn, hk] at hw
    exact ⟨.rd1 (fieldA w), hw⟩
  · rw [hop] at hw
    exact ⟨.brd (fieldA w) (fieldN w) (fieldK w), hw⟩

/-- The word of every command carries its opcode and is selected by a row of the table. -/
theorem encode_tableRow (i : Instr) : Laws.TableRow.Statement i := by
  cases i with
  | nop => exact Laws.TableRow.nop
  | openSession => exact Laws.TableRow.openSession
  | closeSession => exact Laws.TableRow.closeSession
  | wr1 a v => exact Laws.TableRow.wr1 a v
  | rd1 a => exact Laws.TableRow.rd1 a
  | brd a n k => exact Laws.TableRow.brd a n k
  | chkid => exact Laws.TableRow.chkid
  | ldcal => exact Laws.TableRow.ldcal
  | cfg => exact Laws.TableRow.cfg
  | poll => exact Laws.TableRow.poll
  | rdraw => exact Laws.TableRow.rdraw
  | unpkc => exact Laws.TableRow.unpkc
  | unpkr => exact Laws.TableRow.unpkr
  | cmpt => exact Laws.TableRow.cmpt
  | cmpp => exact Laws.TableRow.cmpp
  | cmph => exact Laws.TableRow.cmph

theorem fieldOp_encode (i : Instr) : fieldOp (encode i) = i.op := (encode_tableRow i).1

/-- The rows of the table select the words of the commands, and no others. -/
theorem exists_selects_iff (w : Word) : (∃ r ∈ opcodeTable, r.selects w = true) ↔ ∃ i, encode i = w := by
  constructor
  · rintro ⟨r, hr, h⟩
    exact exists_encode_of_selects hr h
  · rintro ⟨i, rfl⟩
    obtain ⟨-, r, hr, h, -⟩ := encode_tableRow i
    exact ⟨r, hr, h⟩

/-! ## The bounds of R94, read from a word -/

theorem brdBounds_iff (n k : Byte) :
    brdBounds n k = true ↔ 1 ≤ n.toNat ∧ n.toNat ≤ 33 ∧ k.toNat ≤ 32 ∧ k.toNat + n.toNat ≤ 33 := by
  simp only [brdBounds, Bool.and_eq_true, decide_eq_true_eq, and_assoc]

/-- A command is well formed when its word, if it is a `BRD`'s, has `N` and `K` in bounds. -/
theorem wf_iff_brdBounds_encode (i : Instr) :
    i.wf = true ↔ (fieldOp (encode i) = 0x12 → brdBounds (fieldN (encode i)) (fieldK (encode i)) = true) := by
  cases i with
  | brd a n k =>
    rw [encode, fieldOp_pack, fieldN_pack, fieldK_pack]
    exact ⟨fun h _ => h, fun h => h rfl⟩
  | _ =>
    rw [fieldOp_encode]
    exact iff_of_true rfl nofun

/-! ## The obligations -/

/-- Settles O2: the decoder refuses the word of a command only when the command is not well formed. -/
theorem decodeOfEncodeIsTheCommand : Obligations.DecodeOfEncodeIsTheCommand :=
  fun i h => (decode_encode_ok_iff i).mpr h

/-- Settles O3: the decoder accepts only encodings, and of those only the ones of well-formed commands. -/
theorem encodeOfDecodeIsTheWord : Obligations.EncodeOfDecodeIsTheWord :=
  fun w i h => (decode_ok_iff w i).mp h

/-- Settles O4: the table selects the words of the commands, and the bounds single out the well-formed ones. -/
theorem legalWordsAreTheTablesRows : Obligations.LegalWordsAreTheTablesRows := by
  intro w
  rw [exists_selects_iff, ← brdBounds_iff]
  constructor
  · rintro ⟨i, h⟩
    obtain ⟨hwf, rfl⟩ := (decode_ok_iff w i).mp h
    exact ⟨⟨i, rfl⟩, (wf_iff_brdBounds_encode i).mp hwf⟩
  · rintro ⟨⟨i, rfl⟩, hb⟩
    exact ⟨i, (decode_encode_ok_iff i).mpr ((wf_iff_brdBounds_encode i).mpr hb)⟩

/-- Settles O5: both rows' opcodes are the word's, and the rows' opcodes are distinct. -/
theorem noWordSelectsTwoRows : Obligations.NoWordSelectsTwoRows := by
  intro w r r' hr hr' h h'
  have hop : fieldOp r.bits = fieldOp r'.bits :=
    (fieldOp_of_selects hr h).symm.trans (fieldOp_of_selects hr' h')
  exact opcodeTable_op_inj r hr r' hr' hop

/-- Settles O1: the decoder evaluated on each word. -/
theorem wordsDecodeAsTheTableSays : Obligations.WordsDecodeAsTheTableSays := by
  unfold Obligations.WordsDecodeAsTheTableSays
  decide

end Sys2Proof
end

section
/-! SUPPORT. The session commands and the checks before a command (40_session.md): a command that is refused, everything
`OPEN` can do, and what `CLOSE` releases and keeps. -/

namespace Sys2Proof.Machine

/-! ## Running a word (R110) -/

theorem execWord_of_decode_ok {w : Word} {i : Instr} (h : decode w = .ok i) (s : State) :
    execWord w s = exec i { s with lastCmd := w } := by
  rw [execWord, h]

/-! ## The checks before a command (R114, 60_exceptions.md R219) -/

/-- Every command but the three of the session itself needs an open session. -/
theorem sessionAllows_eq {i : Instr} (hn : i ≠ .nop) (ho : i ≠ .openSession) (hc : i ≠ .closeSession) (x : Sess) :
    sessionAllows i x = decide (x = .opened) := by
  cases i with
  | nop => exact absurd rfl hn
  | openSession => exact absurd rfl ho
  | closeSession => exact absurd rfl hc
  | _ => rfl

/-- An invalid byte among the first `n` of the receive buffer. -/
theorem rxvCovers_eq_false {x : BitVec 33} {n : Nat} (hn : n ≤ 33) (h : ∃ j < n, x.getLsbD j = false) :
    rxvCovers x n = false := by
  obtain ⟨j, hj, hx⟩ := h
  rw [← Bool.not_eq_true, rxvCovers_iff x n hn]
  exact fun hall => absurd (hall j hj) (by simp [hx])

/-- A command refused by either check is `Fail(OrderViolation, 0xFFFF)`. -/
theorem exec_of_refused {i : Instr} {s : State} (h : sessionAllows i s.sess = false ∨ dataPrecondition i s = false) :
    exec i s = .next (fail .orderViolation refusedStep s) := by
  obtain ⟨-, he⟩ | ⟨ha, hd, -⟩ := exec_cases i s
  · exact he
  · simp [ha, hd] at h

/-! ## `OPEN` (R112) -/

/-- An error in an open session that has had none is recorded and aborts the session (60_exceptions.md R222). -/
theorem fail_of_opened {s : State} (hs : s.sess = .opened) (he : s.err = .clear) (e : ErrCode) (n : BitVec 16) :
    fail e n s = { s with err := e, errCmd := s.lastCmd, errStep := n, sess := .aborted } := by
  rw [fail_eq, if_pos he, if_pos he, if_pos he, if_pos hs]

/-- `t` is where `OPEN` stands when its calls so far are the events `es`: the session started from `s`, `BUS_HELD` at
`held`, and nothing but the transport touched since. -/
def Opening (s : State) (held : Bool) (es : List Event) (t : State) : Prop :=
  BusOnly { startSession s with busHeld := held } t ∧ t.bus.history = s.bus.history ++ es

/-- What the host sees of `t` is what it saw of `s`, with the session's data cleared. -/
def ClearedFrom (s t : State) : Prop :=
  t.sessionClear ∧ t.devSel = s.devSel ∧ t.lastCmd = s.lastCmd ∧ t.cfg = s.cfg ∧ t.hostq = s.hostq ∧ t.reads = s.reads

/-- `ClearedFrom` with one more fact, in a row. -/
theorem ClearedFrom.and {s t : State} (h : ClearedFrom s t) {p : Prop} (hp : p) :
    t.sessionClear ∧ t.devSel = s.devSel ∧ t.lastCmd = s.lastCmd ∧ t.cfg = s.cfg ∧ t.hostq = s.hostq ∧
      t.reads = s.reads ∧ p := by
  obtain ⟨hclear, hsel, hlast, hcfg, hq, hreads⟩ := h
  exact ⟨hclear, hsel, hlast, hcfg, hq, hreads, hp⟩

section
variable {s t : State} {held : Bool} {es : List Event}

theorem Opening.clearedFrom (h : Opening s held es t) : ClearedFrom s t := by
  rw [h.1]
  exact ⟨clearSession_sessionClear s, rfl, rfl, rfl, rfl, rfl⟩

theorem Opening.session (h : Opening s held es t) :
    t.sess = .opened ∧ t.busHeld = held ∧ t.err = .clear ∧ t.errCmd = 0 ∧ t.errStep = 0 ∧ t.hung = s.hung := by
  rw [h.1]
  exact ⟨rfl, rfl, rfl, rfl, rfl, rfl⟩

/-- A failing call aborts the session that `OPEN` has started and clears nothing more. -/
theorem Opening.fail_eq (h : Opening s held es t) (e : ErrCode) (n : BitVec 16) :
    fail e n t = { t with err := e, errCmd := s.lastCmd, errStep := n, sess := .aborted } := by
  obtain ⟨hs, -, he, -⟩ := h.session
  obtain ⟨-, -, hl, -⟩ := h.clearedFrom
  rw [fail_of_opened hs he, hl]

end

/-- Everything `OPEN` can do after its checks: both calls answered `ok`, either one failed, or one that never
returns. -/
theorem openBody_post (s : State) :
    (openBody s).Post
      (fun _ t => Opening s true [.busOpen s.devSel true, .addrSelect s.devSel true] t)
      (fun e n t => e = .transportError ∧
        ((n = 0 ∧ Opening s s.busHeld [.busOpen s.devSel false] t) ∨
          (n = 1 ∧ Opening s true [.busOpen s.devSel true, .addrSelect s.devSel false] t)))
      (fun t => Scripted.never ∈ s.bus.script ∧ ∃ held es, Opening s held es t) := by
  rw [openBody, Run.post_bind]
  refine (busOpen_post (startSession s)).mono ?answered (fun _ _ _ h => h.elim) ?hung
  case hung =>
    rintro t ⟨hb, hh, -, -, hn⟩
    exact ⟨List.mem_of_mem_head? hn, s.busHeld, [], hb, hh.trans (List.append_nil _).symm⟩
  case answered =>
    rintro r0 t ⟨hb, hh, hs, -, -⟩
    cases r0 with
    | false => exact ⟨rfl, .inl ⟨rfl, hb, hh⟩⟩
    | true =>
      have held : BusOnly { startSession s with busHeld := true } { t with busHeld := true } := by
        rw [hb]
        rfl
      have sel : t.devSel = s.devSel := by
        rw [hb]
        rfl
      rw [if_pos rfl, Run.post_bind]
      refine (addrSelect_post { t with busHeld := true }).mono ?_ (fun _ _ _ h => h.elim) ?_
      · rintro r1 u ⟨hb', hh', -⟩
        have opening : Opening s true [.busOpen s.devSel true, .addrSelect s.devSel r1] u := by
          refine ⟨held.trans hb', ?_⟩
          rw [hh', hh, sel, List.append_assoc]
          rfl
        cases r1 with
        | false => exact ⟨rfl, .inr ⟨rfl, opening⟩⟩
        | true => exact opening
      · rintro u ⟨hb', hh', -, -, hn⟩
        rw [hs] at hn
        exact ⟨List.mem_of_mem_tail (List.mem_of_mem_head? hn), true, _, held.trans hb', hh'.trans hh⟩

/-- `OPEN` with both answers scripted `ok`. -/
theorem openBody_of_ok {s : State} {rest : List Scripted} (h : s.bus.script = .reply .ok :: .reply .ok :: rest) :
    openBody s = .ok () ({ startSession s with busHeld := true }.afterCalls rest
      [.busOpen s.devSel true, .addrSelect s.devSel true]) := by
  rw [openBody, busOpen, ask_reply _ _ _ _ (s := startSession s) h, Run.ok_bind, Reply.isOk, if_pos rfl, addrSelect,
    ask_reply _ _ _ _ (r := .ok) (rest := rest) rfl, Run.ok_bind, Reply.isOk, if_pos rfl]
  exact congrArg (Run.ok ()) (State.afterCalls_afterCalls { startSession s with busHeld := true } _ _ _ _)

/-! ## `CLOSE` (R113) -/

theorem endSession_of_held {s : State} (h : s.busHeld = true) :
    endSession s = { clearSession { busClose s with busHeld := false } with sess := .closed } := by
  rw [endSession, releaseBus, if_pos h]

theorem endSession_of_not_held {s : State} (h : s.busHeld = false) :
    endSession s = { clearSession s with sess := .closed } := by
  rw [endSession, releaseBus, if_neg (Bool.eq_false_iff.mp h)]

/-! ## The obligations -/

/-- Settles O9: each clause fails one of the two checks. -/
theorem outOfOrderCommandIsAnOrderViolation : Obligations.OutOfOrderCommandIsAnOrderViolation := by
  intro i s h
  suffices hr : sessionAllows i s.sess = false ∨ dataPrecondition i s = false by
    rw [exec_of_refused hr, fail_eq]
    rfl
  obtain ⟨rfl, hs⟩ | ⟨hn, ho, hc, hs⟩ | ⟨rfl, hcal⟩ | ⟨rfl, hcal | hrx⟩ | ⟨rfl, hrx⟩ | ⟨rfl, hv⟩ | ⟨rfl | rfl, hv⟩ := h
  · exact .inl (decide_eq_false hs)
  · exact .inl ((sessionAllows_eq hn ho hc _).trans (decide_eq_false hs))
  · exact .inr (by simp [dataPrecondition, hcal])
  · exact .inr (by simp [dataPrecondition, hcal])
  · exact .inr (by simp [dataPrecondition, rxvCovers_eq_false (Nat.le_refl 33) hrx])
  · exact .inr (rxvCovers_eq_false (by decide) hrx)
  · exact .inr (Bool.and_eq_false_iff.mpr hv)
  all_goals exact .inr (by simpa only [dataPrecondition, Bool.and_eq_false_iff, or_assoc] using hv)

/-- Settles O19: from `CLOSED` the command is its pseudocode, and each end of that is one of the four cases. -/
theorem openFollowsItsAnswers : Obligations.OpenFollowsItsAnswers := by
  intro s hs
  have he := exec_of_allowed (i := .openSession) (s := s) (by rw [hs]; rfl) rfl
  rw [bodyOf] at he
  have hpost := openBody_post s
  cases hr : openBody s with
  | ok _ t =>
    rw [hr] at hpost he
    have h : Opening s true _ t := hpost
    exact ⟨t, he, h.clearedFrom.and (.inl ⟨h.2, h.session⟩)⟩
  | raised e n t =>
    rw [hr] at hpost he
    obtain ⟨rfl, ⟨rfl, h⟩ | ⟨rfl, h⟩⟩ := hpost
    · rw [settle, h.fail_eq] at he
      obtain ⟨-, hheld, -, -, -, hhung⟩ := h.session
      exact ⟨_, he, h.clearedFrom.and (.inr (.inl ⟨h.2, rfl, hheld, rfl, rfl, rfl, hhung⟩))⟩
    · rw [settle, h.fail_eq] at he
      obtain ⟨-, hheld, -, -, -, hhung⟩ := h.session
      exact ⟨_, he, h.clearedFrom.and (.inr (.inr (.inl ⟨h.2, rfl, hheld, rfl, rfl, rfl, hhung⟩)))⟩
  | hung t =>
    rw [hr] at hpost he
    obtain ⟨hnever, held, es, h⟩ := hpost
    obtain ⟨hsess, -, herr, -⟩ := h.session
    exact ⟨_, he, h.clearedFrom.and (.inr (.inr (.inr ⟨hnever, rfl, hsess, herr⟩)))⟩

/-- Settles O6: the step is `execWord`, which decodes the word. -/
theorem stepRunsTheDecodedCommand : Obligations.StepRunsTheDecodedCommand := by
  intro s w rest hh
  refine ⟨fun hw => ⟨fun i hi => ?_, fun _ _ => step_of_issuesWord hh hw⟩, fun hq ha => ?_⟩
  · rw [step_of_issuesWord hh hw, execWord_of_decode_ok hi]
  · rw [step_of_action hh hq, hostAct, if_pos ha]

/-- Settles O17: `NOP` is always allowed, and its pseudocode is empty. -/
theorem nopChangesOnlyLastCmd : Obligations.NopChangesOnlyLastCmd := by
  have hnop : ∀ s : State, exec .nop s = .next s := fun _ => exec_of_allowed rfl rfl
  exact ⟨hnop, fun s => (execWord_of_decode_ok (by decide) s).trans (hnop _)⟩

/-- Settles O18: the pseudocode with both answers scripted ends in a state whose every field is written out. -/
theorem openCompletes : Obligations.OpenCompletes := by
  intro s rest hs hscript
  have he := exec_of_allowed (i := .openSession) (s := s) (by rw [hs]; rfl) rfl
  rw [bodyOf, openBody_of_ok hscript] at he
  exact ⟨_, he, rfl, rfl, rfl, rfl, rfl, clearSession_sessionClear s, rfl, rfl, rfl, rfl, rfl, rfl, rfl⟩

/-- Settles O20: the command is `endSession`, which releases the bus and clears the session. -/
theorem closeReleasesBusAndClearsData : Obligations.CloseReleasesBusAndClearsData := by
  intro s
  refine ⟨endSession s, exec_of_allowed rfl rfl, ?_⟩
  cases h : s.busHeld with
  | false =>
    rw [endSession_of_not_held h]
    exact ⟨rfl, h, clearSession_sessionClear s, rfl, rfl, rfl, (List.append_nil _).symm, rfl, rfl, rfl, rfl, rfl, rfl,
      rfl⟩
  | true =>
    rw [endSession_of_held h]
    exact ⟨rfl, rfl, clearSession_sessionClear { busClose s with busHeld := false }, rfl, rfl, rfl, rfl, rfl, rfl, rfl,
      rfl, rfl, rfl, rfl⟩

end Sys2Proof.Machine
end

section
/-! SUPPORT. The transport commands `WR1`, `RD1`, `BRD` (41_transport.md): which bytes and valid bits a burst writes or
drops, the pseudocode of `BRD` for the answers the environment has chosen, and everything it can do whatever answers
it. -/

namespace Sys2Proof.Machine

/-! ## Commands of an open session (40_session.md R114) -/

/-- An open session refuses `OPEN` and no other command. -/
theorem sessionAllows_opened {i : Instr} (hi : i ≠ .openSession) : sessionAllows i .opened = true := by
  cases i with
  | openSession => exact absurd rfl hi
  | _ => rfl

/-- In an open session a command whose data precondition holds is its pseudocode, settled. -/
theorem exec_of_opened {i : Instr} {s : State} (hs : s.sess = .opened) (hi : i ≠ .openSession)
    (hd : dataPrecondition i s = true) : exec i s = .next (settle (bodyOf i s)) :=
  exec_of_allowed (hs ▸ sessionAllows_opened hi) hd

section
variable {s : State}

theorem exec_wr1_of_opened (hs : s.sess = .opened) (a v : Byte) :
    exec (.wr1 a v) s = .next (settle (devWrite1 0 a v s)) := exec_of_opened hs nofun rfl

theorem exec_brd_of_opened (hs : s.sess = .opened) (a n k : Byte) :
    exec (.brd a n k) s = .next (settle (brdBody a n.toNat k.toNat s)) := exec_of_opened hs nofun rfl

theorem exec_rd1_of_opened (hs : s.sess = .opened) (a : Byte) :
    exec (.rd1 a) s = .next (settle (brdBody a 1 0 s)) := exec_of_opened hs nofun rfl

end

/-! ## The error procedure (60_exceptions.md R222) -/

theorem fail_sess_of_opened {s : State} (hs : s.sess = .opened) (e : ErrCode) (n : BitVec 16) :
    (fail e n s).sess = .aborted := by
  rw [fail_eq]
  exact if_pos hs

@[simp] theorem fail_bus (e : ErrCode) (n : BitVec 16) (s : State) : (fail e n s).bus = s.bus := by rw [fail_eq]
@[simp] theorem fail_rxbuf (e : ErrCode) (n : BitVec 16) (s : State) : (fail e n s).rxbuf = s.rxbuf := by rw [fail_eq]
@[simp] theorem fail_rxv (e : ErrCode) (n : BitVec 16) (s : State) : (fail e n s).rxv = s.rxv := by rw [fail_eq]

/-- Recording an error and dropping a burst's bytes write different fields. -/
theorem fail_dropBytes (e : ErrCode) (m : BitVec 16) (k n : Nat) (s : State) :
    fail e m (dropBytes k n s) = dropBytes k n (fail e m s) := by
  rw [fail_eq, fail_eq]
  rfl

/-! ## The bytes of a burst (10_state.md R32, R122) -/

theorem putBytes_getElem (k : Nat) (bs : List Byte) (s : State) {j : Nat} (hj : j < 33) :
    (putBytes k bs s).rxbuf[j] = if k ≤ j ∧ j < k + bs.length then bs.getD (j - k) 0 else s.rxbuf[j] := by
  refine (writeBytes_getElem k bs s.rxbuf j hj).trans ?_
  by_cases h : k ≤ j ∧ j < k + bs.length
  · rw [dif_pos h, if_pos h, List.getD_eq_getElem]
  · rw [dif_neg h, if_neg h]

theorem dropBytes_getElem_outside {k n j : Nat} (s : State) (hj : j < 33) (h : ¬(k ≤ j ∧ j < k + n)) :
    (dropBytes k n s).rxbuf[j] = s.rxbuf[j] := by
  refine (writeBytes_getElem k _ s.rxbuf j hj).trans ?_
  rw [dif_neg (by rwa [freeBytes_length])]

/-- A burst of one byte into offset 0 (R121). -/
theorem putBytes_zero_singleton (b : Byte) (s : State) :
    putBytes 0 [b] s = { s with rxbuf := s.rxbuf.set 0 b, rxv := s.rxv ||| 1#33 } := by
  have hset : s.rxbuf.setIfInBounds 0 b = s.rxbuf.set 0 b := by
    ext j hj
    rw [Vector.getElem_setIfInBounds hj, Vector.getElem_set]
  rw [putBytes_singleton, hset]
  rfl

/-! ## The pseudocode of `BRD` (R122) -/

section
variable {s : State} {rest : List Scripted}

theorem brdBody_ok (a : Byte) {n : Nat} (k : Nat) {bs : List Byte} (hl : bs.length = n)
    (h : s.bus.script = burstAnswers bs ++ rest) :
    brdBody a n k s = .ok () (putBytes k bs (s.afterCalls rest (burstEvents a bs))) := by
  rw [brdBody, burstInto_ok 0 a k hl h, Run.ok_bind]

theorem brdBody_bad_write (a : Byte) (n k : Nat) {c : Int} (hc : c ≠ 1) (h : s.bus.script = .reply (.count c) :: rest) :
    brdBody a n k s = .raised .ioError 0 (dropBytes k n (s.afterCalls rest [.tWrite [a] c])) := by
  rw [brdBody, burstInto_bad_write 0 a n k hc h, Run.raised_bind]

theorem brdBody_bad_read (a : Byte) (n k : Nat) {r : Reply} (hn : (r.asBytes.getD []).length ≠ n)
    (h : s.bus.script = .reply (.count 1) :: .reply r :: rest) :
    brdBody a n k s =
      .raised .ioError 1 (dropBytes k n (s.afterCalls rest [.tWrite [a] 1, .tRead n r.asBytes])) := by
  rw [brdBody, burstInto_bad_read 0 a n k hn h, Run.raised_bind]

end

/-- Everything `BRD` can do after its checks: its pseudocode ends as the burst does. -/
theorem brdBody_post (a : Byte) (n k : Nat) (s : State) :
    (brdBody a n k s).Post
      (fun _ t => ∃ (r : Option (List Byte)) (u : State), (r.getD []).length = n ∧
        CallsOnly [.tWrite [a] 1, .tRead n r] s u ∧ t = putBytes k (r.getD []) u)
      (fun e m t => e = .ioError ∧ ∃ u : State, t = dropBytes k n u ∧
        ((m = 0 ∧ ∃ c : Int, c ≠ 1 ∧ CallsOnly [.tWrite [a] c] s u) ∨
          (m = 1 ∧ ∃ r : Option (List Byte), (r.getD []).length ≠ n ∧ CallsOnly [.tWrite [a] 1, .tRead n r] s u)))
      (fun t => Scripted.never ∈ s.bus.script ∧ (CallsOnly [] s t ∨ CallsOnly [.tWrite [a] 1] s t)) := by
  rw [brdBody, Run.post_bind]
  refine (burstInto_post 0 a n k s).mono ?_ (fun _ _ _ h => h) fun _ h => h
  rintro - t ⟨hl, r, u, rfl, hc, ht⟩
  exact ⟨r, u, hl, hc, ht⟩

/-! ## After transport calls -/

@[simp] theorem State.afterCalls_rxbuf (s : State) (rest : List Scripted) (es : List Event) :
    (s.afterCalls rest es).rxbuf = s.rxbuf := rfl

section
variable {s u : State} {es : List Event}

theorem CallsOnly.sess (h : CallsOnly es s u) : u.sess = s.sess := by rw [h.1]

theorem CallsOnly.err (h : CallsOnly es s u) : u.err = s.err := by rw [h.1]

/-- A burst that fails after the calls `es` leaves these in the history and aborts the session. -/
theorem CallsOnly.failed_burst (h : CallsOnly es s u) (hs : s.sess = .opened) (e : ErrCode) (m : BitVec 16)
    (k n : Nat) :
    (fail e m (dropBytes k n u)).bus.history = s.bus.history ++ es ∧ (fail e m (dropBytes k n u)).sess = .aborted := by
  refine ⟨?_, fail_sess_of_opened (s := dropBytes k n u) (h.sess.trans hs) e m⟩
  rw [fail_bus]
  exact h.2.1

end

/-! ## The obligations -/

/-- Settles O24: the pseudocode ends in `putBytes`, read byte by byte and bit by bit. -/
theorem brdStoresTheBurst : Obligations.BrdStoresTheBurst := by
  intro s a n k bs rest hs _ hl hscript
  refine ⟨putBytes k.toNat bs (s.afterCalls rest (burstEvents a bs)), ?_, putBytes_frame _ _ _, fun j hj => ?_,
    fun j hj => ?_⟩
  · rw [exec_brd_of_opened hs, brdBody_ok a k.toNat hl hscript, settle]
  · rw [← hl]
    exact putBytes_getElem _ _ _ hj
  · rw [← hl]
    exact getLsbD_putMask _ _ _ _ hj

/-- Settles O25: either failing call is followed by `dropBytes` and `Fail` at its number, in whichever order. -/
theorem failedBurstDeliversNothing : Obligations.FailedBurstDeliversNothing := by
  intro s a n k es left number hs _ hfail
  have he : exec (.brd a n k) s =
      .next (dropBytes k.toNat n.toNat (fail .ioError number (s.afterCalls left es))) := by
    rw [exec_brd_of_opened hs, ← fail_dropBytes]
    obtain ⟨c, hc, hscript, rfl, rfl⟩ | ⟨r, hr, hscript, rfl, rfl⟩ := hfail
    · rw [brdBody_bad_write a _ _ hc hscript]
      rfl
    · rw [brdBody_bad_read a _ _ hr hscript]
      rfl
  refine ⟨_, he, dropBytes_frame _ _ _, fun j hj hout => ?_, fun j hj => ?_⟩
  · rw [dropBytes_getElem_outside _ hj hout]
    simp only [fail_rxbuf, State.afterCalls_rxbuf]
  · rw [dropBytes_rxv, fail_rxv]
    exact getLsbD_dropMask _ _ _ _ hj

/-- Settles O26: each end of the burst is one of the cases. -/
theorem burstIsOneTransaction : Obligations.BurstIsOneTransaction := by
  intro s t a n k hs _ he
  obtain rfl := Host.Outcome.next.inj ((exec_brd_of_opened hs a n k).symm.trans he)
  have hpost := brdBody_post a n.toNat k.toNat s
  generalize brdBody a n.toNat k.toNat s = run at hpost ⊢
  cases run with
  | ok _ t =>
    obtain ⟨r, u, hl, hc, rfl⟩ := hpost
    exact .inr (.inr (.inr ⟨_, hl, hc.sess.trans hs, hc.err, r, rfl, hc.2.1⟩))
  | raised e m t =>
    obtain ⟨-, u, rfl, ⟨-, c, hne, hc⟩ | ⟨-, r, hne, hc⟩⟩ := hpost
    · obtain ⟨hh, ha⟩ := hc.failed_burst hs e (callNumber m) k.toNat n.toNat
      exact .inr (.inl ⟨c, hne, hh, ha⟩)
    · obtain ⟨hh, ha⟩ := hc.failed_burst hs e (callNumber m) k.toNat n.toNat
      exact .inr (.inr (.inl ⟨r, hne, ha, hh⟩))
  | hung t => exact .inl rfl

/-- Settles O27: the two commands have the same checks and the same pseudocode, so they unfold to one term; a burst
of one byte into offset 0 is one byte put there. -/
theorem rd1IsBrdOfOneByteIntoZero : Obligations.Rd1IsBrdOfOneByteIntoZero := by
  refine ⟨fun a s => rfl, fun s a b rest hs hscript => ?_⟩
  rw [exec_rd1_of_opened hs, brdBody_ok a 0 (List.length_singleton (a := b)) hscript, settle, putBytes_zero_singleton]
  rfl

/-- Settles O22: the write's count is the one `DevWrite1` asks for. -/
theorem wr1MakesOneWrite : Obligations.Wr1MakesOneWrite := by
  intro s a v rest hs hscript
  rw [exec_wr1_of_opened hs, devWrite1_ok 0 a v hscript, settle]

/-- Settles O23: the call's number is 0. -/
theorem wr1WrongCountIsAnIoError : Obligations.Wr1WrongCountIsAnIoError := by
  intro s a v c rest hs hc hscript
  rw [exec_wr1_of_opened hs, devWrite1_bad 0 a v hc hscript]
  rfl

end Sys2Proof.Machine
end

section
/-! SUPPORT. The fixed programs `CHKID`, `LDCAL`, `CFG` and `RDRAW` (42_sequences.md R135 to R137, R139): their
pseudocode for the answers the environment has chosen, and that one that succeeds is its bursts and its unpacking. -/

namespace Sys2Proof.Machine

/-! ## Commands of an open session -/

section
variable {s : State}

theorem exec_chkid_of_opened (hs : s.sess = .opened) : exec .chkid s = .next (settle (chkidBody s)) :=
  exec_of_opened hs nofun rfl

theorem exec_ldcal_of_opened (hs : s.sess = .opened) (hc : s.calValid = false) :
    exec .ldcal s = .next (settle (ldcalBody s)) :=
  exec_of_opened hs nofun (by rw [dataPrecondition, hc]; rfl)

theorem exec_cfg_of_opened (hs : s.sess = .opened) : exec .cfg s = .next (settle (cfgBody s)) :=
  exec_of_opened hs nofun rfl

theorem exec_rdraw_of_opened (hs : s.sess = .opened) : exec .rdraw s = .next (settle (rdrawBody s)) :=
  exec_of_opened hs nofun rfl

theorem exec_unpkc_of_opened (hs : s.sess = .opened) (hc : s.calValid = false) (hv : rxvCovers s.rxv 33 = true) :
    exec .unpkc s = .next (loadCal s) :=
  exec_of_opened hs nofun (by rw [dataPrecondition, hc, hv]; rfl)

theorem exec_unpkr_of_opened (hs : s.sess = .opened) (hv : rxvCovers s.rxv 8 = true) :
    exec .unpkr s = .next (loadRaw s) := exec_of_opened hs nofun hv

end

@[simp] theorem State.afterCalls_rxv (s : State) (rest : List Scripted) (es : List Event) :
    (s.afterCalls rest es).rxv = s.rxv := rfl

/-! ## A burst that fails, at either of its calls (20_memory.md R66) -/

/-- The script makes a burst of `n` bytes from device address `a` fail after the calls `es` and is left at `left`; the
number of the failing call is `atWrite` when it is the address write and `atRead` when it is the read. -/
def BurstFailure {ν : Type} (a : Byte) (n : Nat) (script left : List Scripted) (es : List Event)
    (atWrite atRead number : ν) : Prop :=
  (∃ c : Int, c ≠ 1 ∧ script = .reply (.count c) :: left ∧ es = [.tWrite [a] c] ∧ number = atWrite) ∨
  (∃ r : Reply, (r.asBytes.getD []).length ≠ n ∧ script = .reply (.count 1) :: .reply r :: left ∧
    es = [.tWrite [a] 1, .tRead n r.asBytes] ∧ number = atRead)

theorem burstInto_of_failure {ν : Type} {f : Nat → ν} {step : Nat} {a : Byte} {n : Nat} {s : State}
    {left : List Scripted} {es : List Event} {number : ν} (k : Nat)
    (h : BurstFailure a n s.bus.script left es (f step) (f (step + 1)) number) :
    ∃ m, burstInto step a n k s = .raised .ioError m (dropBytes k n (s.afterCalls left es)) ∧ number = f m := by
  obtain ⟨c, hc, hscript, rfl, hm⟩ | ⟨r, hr, hscript, rfl, hm⟩ := h
  · exact ⟨step, burstInto_bad_write step a n k hc hscript, hm⟩
  · exact ⟨step + 1, burstInto_bad_read step a n k hr hscript, hm⟩

/-- `s` aborted with an `IOError` at call `number`, after the calls `es`, by a burst of `n` bytes into offset `k`. -/
def State.afterFailedBurst (s : State) (left : List Scripted) (es : List Event) (k n : Nat) (number : BitVec 16) :
    State := dropBytes k n (fail .ioError number (s.afterCalls left es))

section
variable (s : State) (left : List Scripted) (es : List Event) (k n : Nat) (number : BitVec 16)

theorem State.afterFailedBurst_frame : s.afterFailedBurst left es k n number =
    { fail .ioError number (s.afterCalls left es) with
      rxbuf := (s.afterFailedBurst left es k n number).rxbuf, rxv := (s.afterFailedBurst left es k n number).rxv,
      draws := (s.afterFailedBurst left es k n number).draws } := rfl

@[simp] theorem State.afterFailedBurst_rxv :
    (s.afterFailedBurst left es k n number).rxv = s.rxv &&& ~~~rangeMask k n := by
  rw [State.afterFailedBurst, dropBytes_rxv, fail_rxv, State.afterCalls_rxv]

theorem State.afterFailedBurst_getElem_outside {j : Nat} (hj : j < 33) (h : ¬(k ≤ j ∧ j < k + n)) :
    (s.afterFailedBurst left es k n number).rxbuf[j] = s.rxbuf[j] := by
  refine (dropBytes_getElem_outside _ hj h).trans ?_
  simp only [fail_rxbuf, State.afterCalls_rxbuf]

end

theorem fail_putBytes (e : ErrCode) (m : BitVec 16) (k : Nat) (bs : List Byte) (s : State) :
    fail e m (putBytes k bs s) = putBytes k bs (fail e m s) := by
  rw [fail_eq, fail_eq]
  rfl

/-- A command whose first burst, into offset 0, fails ends there. -/
theorem exec_of_failed_first_burst {i : Instr} {a : Byte} {n : Nat} {f : List Byte → State → Run Unit} {s : State}
    {left : List Scripted} {es : List Event} {number : BitVec 16}
    (he : exec i s = .next (settle ((burstInto 0 a n 0 s).bind f)))
    (h : BurstFailure a n s.bus.script left es 0 1 number) :
    exec i s = .next (s.afterFailedBurst left es 0 n number) := by
  obtain ⟨m, hb, rfl⟩ := burstInto_of_failure (f := callNumber) (step := 0) 0 h
  rw [he, hb, Run.raised_bind, settle, fail_dropBytes]
  rfl

/-- After a failed burst into offset 0 the bytes of the burst are invalid, every other one is kept. -/
theorem State.afterFailedBurst_zero (s : State) (left : List Scripted) (es : List Event) (n : Nat)
    (number : BitVec 16) :
    (∀ (j : Nat) (hj : j < 33), n ≤ j → (s.afterFailedBurst left es 0 n number).rxbuf[j] = s.rxbuf[j]) ∧
    (∀ j < 33, (s.afterFailedBurst left es 0 n number).rxv.getLsbD j = if j < n then false else s.rxv.getLsbD j) := by
  refine ⟨fun j hj hn => s.afterFailedBurst_getElem_outside left es 0 n number hj (by omega), fun j hj => ?_⟩
  rw [State.afterFailedBurst_rxv, getLsbD_dropMask _ _ _ _ hj]
  simp only [Nat.zero_le, true_and, Nat.zero_add]

/-! ## `CHKID`, `RDRAW` and `LDCAL` answered as asked -/

section
variable {s : State} {rest : List Scripted}

theorem chkidBody_ok {b : Byte} (h : s.bus.script = burstAnswers [b] ++ rest) :
    chkidBody s = .ok () (noteChipId b (putBytes 0 [b] (s.afterCalls rest (burstEvents s.cfg.addrId [b])))) := by
  rw [chkidBody, burstInto_ok 0 _ 0 (List.length_singleton (a := b)) h, Run.ok_bind]
  rfl

theorem rdrawBody_ok {ds : List Byte} (hl : ds.length = 8) (h : s.bus.script = burstAnswers ds ++ rest) :
    rdrawBody s = .ok () (loadRaw (putBytes 0 ds (s.afterCalls rest (burstEvents s.cfg.addrData ds)))) := by
  rw [rdrawBody, burstInto_ok 0 _ 0 hl h, Run.ok_bind]

/-- `s` with block A read and in the receive buffer, `rest` left of the script. -/
def State.afterBlockA (s : State) (rest : List Scripted) (as : List Byte) : State :=
  putBytes 0 as (s.afterCalls rest (burstEvents s.cfg.addrCalA as))

/-- With block A answered as asked, `LDCAL` goes on to block B. -/
theorem ldcalBody_blockA {as : List Byte} (hl : as.length = 26) (h : s.bus.script = burstAnswers as ++ rest) :
    ldcalBody s = (burstInto 2 s.cfg.addrCalB 7 26 (s.afterBlockA rest as)).bind fun _ s2 => .ok () (loadCal s2) := by
  rw [ldcalBody, burstInto_ok 0 _ 0 hl h, Run.ok_bind]
  rfl

/-- Transport calls after block A. -/
theorem State.afterBlockA_afterCalls (s : State) (mid : List Scripted) (as : List Byte) (es : List Event) :
    (s.afterBlockA mid as).afterCalls rest es =
      putBytes 0 as (s.afterCalls rest (burstEvents s.cfg.addrCalA as ++ es)) := by
  rw [← State.afterCalls_afterCalls s mid]
  rfl

theorem ldcalBody_ok {as bs : List Byte} (hla : as.length = 26) (hlb : bs.length = 7)
    (h : s.bus.script = burstAnswers as ++ (burstAnswers bs ++ rest)) :
    ldcalBody s = .ok () (loadCal (putBytes 26 bs (putBytes 0 as
      (s.afterCalls rest (burstEvents s.cfg.addrCalA as ++ burstEvents s.cfg.addrCalB bs))))) := by
  rw [ldcalBody_blockA hla h, burstInto_ok 2 _ 26 hlb rfl, Run.ok_bind, State.afterBlockA_afterCalls]

end

/-! ## The valid bits of the blocks (R32, R136, R139) -/

theorem or_rangeMask_blocks (x : BitVec 33) : x ||| rangeMask 0 26 ||| rangeMask 26 7 = BitVec.allOnes 33 := by
  refine BitVec.eq_of_getLsbD_eq fun j hj => ?_
  rw [getLsbD_putMask _ _ _ _ hj, getLsbD_putMask _ _ _ _ hj, BitVec.getLsbD_allOnes, decide_eq_true hj]
  split
  · rfl
  · exact if_pos (by omega)

theorem or_rangeMask_and_not_blockB (x : BitVec 33) : (x ||| rangeMask 0 26) &&& ~~~rangeMask 26 7 = 0x3FFFFFF#33 := by
  have hmask : 0x3FFFFFF#33 = rangeMask 0 26 := by decide
  refine BitVec.eq_of_getLsbD_eq fun j hj => ?_
  rw [getLsbD_dropMask _ _ _ _ hj, getLsbD_putMask _ _ _ _ hj, hmask, getLsbD_rangeMask]
  by_cases h : j < 26
  · simp [h, hj, Nat.not_le.mpr h]
  · simp [h, Nat.not_lt.mp h, hj]

theorem rxvCovers_or_rangeMask (x : BitVec 33) (n : Nat) : rxvCovers (x ||| rangeMask 0 n) n = true := by
  refine decide_eq_true (BitVec.eq_of_getLsbD_eq fun j _ => ?_)
  rw [BitVec.getLsbD_and, BitVec.getLsbD_or]
  cases (rangeMask 0 n).getLsbD j <;> simp

/-! ## A burst that succeeds -/

theorem Run.bind_eq_ok_iff {α β : Type} {r : Run α} {f : α → State → Run β} {b : β} {t : State} :
    r.bind f = .ok b t ↔ ∃ a s, r = .ok a s ∧ f a s = .ok b t := by
  cases r <;> simp [Run.bind]

theorem devBurst_step_of_ok {step : Nat} {a : Byte} {n : Nat} {s t : State} {bs : List Byte}
    (h : devBurst step a n s = .ok bs t) (step' : Nat) : devBurst step' a n s = .ok bs t := by
  obtain ⟨c, s1, hw, h⟩ := Run.bind_eq_ok_iff.mp h
  refine Run.bind_eq_ok_iff.mpr ⟨c, s1, hw, ?_⟩
  split at h
  · next hc =>
    obtain ⟨r, s2, hr, h⟩ := Run.bind_eq_ok_iff.mp h
    rw [if_pos hc]
    refine Run.bind_eq_ok_iff.mpr ⟨r, s2, hr, ?_⟩
    split at h
    · next hn => rwa [if_pos hn]
    · exact nomatch h
  · exact nomatch h

/-- The numbers of a burst's calls matter only when it fails. -/
theorem burstInto_step_of_ok {step : Nat} {a : Byte} {n k : Nat} {s t : State} {bs : List Byte}
    (h : burstInto step a n k s = .ok bs t) (step' : Nat) : burstInto step' a n k s = .ok bs t := by
  unfold burstInto at h ⊢
  split at h
  · next hb => rwa [devBurst_step_of_ok hb step']
  · exact nomatch h
  · exact nomatch h

/-- A burst that succeeds makes its bytes valid and, but for them and the transport, changes nothing. -/
theorem burstInto_ok_inv {step : Nat} {a : Byte} {n k : Nat} {s t : State} {bs : List Byte}
    (h : burstInto step a n k s = .ok bs t) :
    t = { s with bus := t.bus, draws := t.draws, rxbuf := t.rxbuf, rxv := s.rxv ||| rangeMask k n } := by
  have hpost := burstInto_post step a n k s
  rw [h] at hpost
  obtain ⟨rfl, -, u, -, ⟨hu, -⟩, rfl⟩ := hpost
  rw [putBytes, hu]

/-- `BRD` whose burst succeeds. -/
theorem exec_brd_of_burst {step : Nat} {a n k : Byte} {s t : State} {bs : List Byte} (hs : s.sess = .opened)
    (h : burstInto step a n.toNat k.toNat s = .ok bs t) : exec (.brd a n k) s = .next t := by
  rw [exec_brd_of_opened hs, brdBody, burstInto_step_of_ok h 0, Run.ok_bind, settle]

/-- A command that goes on from a burst and leaves the session open and not stuck had its burst succeed. -/
theorem burstInto_ok_of_opened {step : Nat} {a : Byte} {n k : Nat} {s : State} {f : List Byte → State → Run Unit}
    (hs : s.sess = .opened) (ht : (settle ((burstInto step a n k s).bind f)).sess = .opened)
    (hh : (settle ((burstInto step a n k s).bind f)).hung = false) :
    ∃ bs u, burstInto step a n k s = .ok bs u := by
  have hpost := burstInto_post step a n k s
  generalize burstInto step a n k s = run at hpost ht hh ⊢
  cases run with
  | ok bs u => exact ⟨bs, u, rfl⟩
  | raised e m u =>
    obtain ⟨-, v, rfl, hc⟩ := hpost
    have hv : v.sess = .opened := by
      obtain ⟨-, _, -, hc⟩ | ⟨-, _, -, hc⟩ := hc
      · exact hc.sess.trans hs
      · exact hc.sess.trans hs
    exact nomatch (fail_sess_of_opened (s := dropBytes k n v) hv e (callNumber m)).symm.trans ht
  | hung u => exact nomatch hh

/-! ## The obligations -/

/-- Settles O30: the one byte is put into the buffer and noted. -/
theorem chkidReadsAndCompares : Obligations.ChkidReadsAndCompares := by
  intro s b rest hs hscript
  have hwarn : (s.warnId || decide (b ≠ s.cfg.idExpected)) = if b = s.cfg.idExpected then s.warnId else true := by
    by_cases hb : b = s.cfg.idExpected <;> simp [hb]
  rw [exec_chkid_of_opened hs, chkidBody_ok hscript, settle, putBytes_zero_singleton, ← hwarn]
  rfl

/-- Settles O31: each byte of the buffer lies in block A or in block B, and the coefficients are unpacked from it. -/
theorem ldcalLoadsBothBlocks : Obligations.LdcalLoadsBothBlocks := by
  intro s as bs rest hs hc hla hlb hscript
  refine ⟨_, by rw [exec_ldcal_of_opened hs hc, ldcalBody_ok hla hlb hscript, settle], ?_, fun j hj => ?_⟩
  · have hrxv : s.rxv ||| rangeMask 0 as.length ||| rangeMask 26 bs.length = BitVec.allOnes 33 := by
      rw [hla, hlb, or_rangeMask_blocks]
    rw [← hrxv]
    rfl
  · refine (putBytes_getElem 26 bs _ hj).trans ?_
    by_cases h : j < 26
    · rw [if_neg (by omega), putBytes_getElem 0 as _ hj, if_pos (by omega), List.getD_append _ _ _ _ (by omega)]
      rfl
    · rw [if_pos (by omega), List.getD_append_right _ _ _ _ (by omega), hla]

/-- Settles O32: block A's failure is a first burst's; after block A, block B's drops its own bytes only. -/
theorem failedLdcalWritesNoCoefficient : Obligations.FailedLdcalWritesNoCoefficient := by
  refine ⟨fun s es left number hs hc hfail => ?blockA, fun s as es left number hs hc hla hfail => ?blockB⟩
  case blockA =>
    exact ⟨_, exec_of_failed_first_burst (exec_ldcal_of_opened hs hc) hfail,
      s.afterFailedBurst_frame left es 0 26 number, s.afterFailedBurst_zero left es 26 number⟩
  case blockB =>
    obtain ⟨tail, hscript, hfail⟩ : ∃ tail, s.bus.script = burstAnswers as ++ tail ∧
        BurstFailure s.cfg.addrCalB 7 tail left es 2 3 number := by
      obtain ⟨c, hne, hscript, h⟩ | ⟨r, hne, hscript, h⟩ := hfail
      · exact ⟨_, hscript, .inl ⟨c, hne, rfl, h⟩⟩
      · exact ⟨_, hscript, .inr ⟨r, hne, rfl, h⟩⟩
    obtain ⟨m, hb, rfl⟩ :=
      burstInto_of_failure (f := callNumber) (step := 2) (s := s.afterBlockA tail as) 26 hfail
    refine ⟨dropBytes 26 7 (putBytes 0 as (fail .ioError (callNumber m)
      (s.afterCalls left (burstEvents s.cfg.addrCalA as ++ es)))), ?_, ?_, fun j hj => ?_⟩
    · rw [exec_ldcal_of_opened hs hc, ldcalBody_blockA hla hscript, hb, Run.raised_bind, settle, fail_dropBytes,
        State.afterBlockA_afterCalls, fail_putBytes]
    · have hrxv : (s.rxv ||| rangeMask 0 as.length) &&& ~~~rangeMask 26 7 = 0x3FFFFFF#33 := by
        rw [hla, or_rangeMask_and_not_blockB]
      rw [← hrxv, ← State.afterCalls_rxv s left, ← fail_rxv .ioError (callNumber m)]
      rfl
    · have hj33 : j < 33 := by omega
      rw [dropBytes_getElem_outside _ hj33 (by omega), putBytes_getElem 0 as _ hj33, if_pos (by omega)]
      rfl

/-- Settles O33: the bursts that succeed are those of the two `BRD`s, and after both the whole buffer is valid. -/
theorem ldcalEqualsTwoBurstsAndUnpack : Obligations.LdcalEqualsTwoBurstsAndUnpack := by
  intro s t hs hc he ht hh
  obtain rfl := Host.Outcome.next.inj ((exec_ldcal_of_opened hs hc).symm.trans he)
  rw [ldcalBody] at ht hh ⊢
  obtain ⟨as, u, hA⟩ := burstInto_ok_of_opened hs ht hh
  rw [hA, Run.ok_bind] at ht hh ⊢
  have hu := burstInto_ok_inv hA
  have hus : u.sess = .opened := by rw [hu]; exact hs
  have hucfg : u.cfg = s.cfg := by rw [hu]
  obtain ⟨bs, v, hB⟩ := burstInto_ok_of_opened hus ht hh
  have hv := burstInto_ok_inv hB
  have hvs : v.sess = .opened := by rw [hv]; exact hus
  have hvc : v.calValid = false := by rw [hv, hu]; exact hc
  have hall : rxvCovers v.rxv 33 = true := by
    rw [hv, hu]
    simp only [or_rangeMask_blocks]
    decide
  refine ⟨u, v, exec_brd_of_burst (n := 26) (k := 0) hs hA, exec_brd_of_burst (n := 7) (k := 26) hus (hucfg ▸ hB), ?_⟩
  rw [exec_unpkc_of_opened hvs hvc hall, hB, Run.ok_bind, settle]

/-- Settles O34: every count is the one `DevWrite1` asks for. -/
theorem cfgWritesThreeRegisters : Obligations.CfgWritesThreeRegisters := by
  intro s rest hs hscript
  rw [exec_cfg_of_opened hs, cfgBody, devWrite1_ok _ _ _ hscript, Run.ok_bind, devWrite1_ok _ _ _ rfl, Run.ok_bind,
    devWrite1_ok _ _ _ rfl, settle, State.afterCalls_afterCalls, State.afterCalls_afterCalls]
  rfl

/-- Settles O35: the writes before the failing one are answered as asked, and none comes after it. -/
theorem cfgStopsAtItsFirstFailure : Obligations.CfgStopsAtItsFirstFailure := by
  intro s c rest hs hc
  rw [exec_cfg_of_opened hs, cfgBody]
  refine ⟨fun h => ?_, fun h => ?_, fun h => ?_⟩
  · rw [devWrite1_bad _ _ _ hc h]
    rfl
  · rw [devWrite1_ok _ _ _ h, Run.ok_bind, devWrite1_bad _ _ _ hc rfl, State.afterCalls_afterCalls]
    rfl
  · rw [devWrite1_ok _ _ _ h, Run.ok_bind, devWrite1_ok _ _ _ rfl, Run.ok_bind, devWrite1_bad _ _ _ hc rfl,
      State.afterCalls_afterCalls, State.afterCalls_afterCalls]
    rfl

/-- Settles O40: the counts are decoded from the bytes just put into the buffer. -/
theorem rdrawReadsOneSample : Obligations.RdrawReadsOneSample := by
  intro s ds rest hs hl hscript
  have hbytes (j : Nat) (hj : j < 33) :
      (writeBytes 0 ds s.rxbuf)[j] = if j < 8 then ds.getD j 0 else s.rxbuf[j] := by
    simpa [hl] using putBytes_getElem 0 ds s hj
  have hmask : 0xFF#33 = rangeMask 0 ds.length := by rw [hl]; rfl
  refine ⟨_, by rw [exec_rdraw_of_opened hs, rdrawBody_ok hl hscript, settle], ?_, hbytes⟩
  simp only [loadRaw, newCycle, putBytes_rxbuf, State.afterCalls_rxbuf, hbytes, hmask]
  rfl

/-- Settles O41: the burst that succeeds is that of the `BRD`, and it makes the bytes `UNPKR` needs valid. -/
theorem rdrawEqualsBurstAndUnpack : Obligations.RdrawEqualsBurstAndUnpack := by
  intro s t hs he ht hh
  obtain rfl := Host.Outcome.next.inj ((exec_rdraw_of_opened hs).symm.trans he)
  obtain ⟨bs, u, hb⟩ := burstInto_ok_of_opened hs ht hh
  have hu := burstInto_ok_inv hb
  have hus : u.sess = .opened := by rw [hu]; exact hs
  have hv : rxvCovers u.rxv 8 = true := by rw [hu]; exact rxvCovers_or_rangeMask s.rxv 8
  refine ⟨u, exec_brd_of_burst (n := 8) (k := 0) hs hb, ?_⟩
  rw [exec_unpkr_of_opened hus hv, rdrawBody, hb, Run.ok_bind, settle]

end Sys2Proof.Machine
end

section
/-! SUPPORT. The fixed program `POLL` (42_sequences.md R138): a run of not-ready reads and each way out of it, and the
bound on the reads whatever answers them. -/

namespace Sys2Proof.Machine

theorem exec_poll_of_opened {s : State} (hs : s.sess = .opened) : exec .poll s = .next (settle (pollBody s)) :=
  exec_of_opened hs nofun rfl

/-! ## Reads answered as asked -/

/-- The answers to status reads that deliver `bs`. -/
def statusAnswers (bs : List Byte) : List Scripted := bs.flatMap fun x => burstAnswers [x]

/-- The events of status reads that deliver the not-ready bytes `bs`, each followed by its sleep. -/
def waitEvents (p : Params) (bs : List Byte) : List Event :=
  bs.flatMap fun x => burstEvents p.addrStatus [x] ++ [.sleep p.tPoll]

/-- `s` after status reads that are the events `es`: `n` of them completed since the poll began, the last one delivered
`b`. -/
def State.polled (s : State) (rest : List Scripted) (es : List Event) (n : Nat) (b : Byte) : State :=
  { s.afterCalls rest es with pollCnt := BitVec.ofNat 16 n, rxbuf := s.rxbuf.set 0 b, rxv := s.rxv ||| 1#33 }

section
variable {s : State} {rest : List Scripted} {b : Byte}

theorem pollLoop_ready (fuel i : Nat) (hb : b.getLsbD s.cfg.measuringBit.val = false)
    (h : s.bus.script = burstAnswers [b] ++ rest) :
    pollLoop (fuel + 1) i s = .ok () (s.polled rest (burstEvents s.cfg.addrStatus [b]) (i + 1) b) := by
  rw [pollLoop, burstInto_ok _ _ 0 (List.length_singleton (a := b)) h, Run.ok_bind, List.headD_cons,
    if_neg (Bool.eq_false_iff.mp hb), putBytes_zero_singleton]
  rfl

theorem pollLoop_notReady (fuel i : Nat) (hb : b.getLsbD s.cfg.measuringBit.val = true)
    (h : s.bus.script = burstAnswers [b] ++ rest) :
    pollLoop (fuel + 1) i s = pollLoop fuel (i + 1) (s.polled rest (waitEvents s.cfg [b]) (i + 1) b) := by
  rw [pollLoop, burstInto_ok _ _ 0 (List.length_singleton (a := b)) h, Run.ok_bind, List.headD_cons, if_pos hb,
    putBytes_zero_singleton]
  congr 1
  simp [State.polled, State.afterCalls, waitEvents, sleepFor, recordEvent]

/-- A status read that fails ends the poll. -/
theorem pollLoop_failure (fuel i : Nat) {left : List Scripted} {es : List Event} {number : Nat}
    (h : BurstFailure s.cfg.addrStatus 1 s.bus.script left es (2 * i) (2 * i + 1) number) :
    pollLoop (fuel + 1) i s = .raised .ioError number (dropBytes 0 1 (s.afterCalls left es)) := by
  obtain ⟨m, hb, rfl⟩ := burstInto_of_failure (f := id) 0 h
  rw [pollLoop, hb, Run.raised_bind]

end

/-! ## The poll from its warm-up on -/

/-- `s` where the loop of `POLL` begins. -/
def State.pollStart (s : State) : State := sleepFor s.cfg.tWarmup { s with pollCnt := 0, pollTimeout := false }

theorem pollBody_eq (s : State) : pollBody s = pollLoop s.cfg.pollMax 0 s.pollStart := rfl

/-- `u` is where a poll begun in `s` stands after the events `es`: `n` reads completed, not timed out, and but for that
and the transport only byte 0 of the receive buffer and its valid bit touched. -/
structure MidPoll (s : State) (rest : List Scripted) (es : List Event) (n : Nat) (u : State) : Prop where
  frame : u = { s.afterCalls rest es with
    pollCnt := BitVec.ofNat 16 n, pollTimeout := false, rxbuf := u.rxbuf, rxv := u.rxv }
  bytes : ∀ (j : Nat) (hj : j < 33), 0 < j → u.rxbuf[j] = s.rxbuf[j]
  bits : u.rxv ||| 1#33 = s.rxv ||| 1#33

theorem MidPoll.start (s : State) : MidPoll s s.bus.script [.sleep s.cfg.tWarmup] 0 s.pollStart :=
  ⟨rfl, fun _ _ _ => rfl, rfl⟩

/-- Clearing bit 0 forgets that it was set. -/
theorem and_not_one_or_one (x : BitVec 33) : (x ||| 1#33) &&& ~~~1#33 = x &&& ~~~1#33 := by
  refine BitVec.eq_of_getLsbD_eq fun j hj => ?_
  simp only [BitVec.getLsbD_or, BitVec.getLsbD_and, BitVec.getLsbD_not, hj]
  cases (1#33).getLsbD j <;> simp

section
variable {s u : State} {rest : List Scripted} {es : List Event} {n : Nat}

theorem MidPoll.cfg (h : MidPoll s rest es n u) : u.cfg = s.cfg := by rw [h.frame]; rfl

theorem MidPoll.script (h : MidPoll s rest es n u) : u.bus.script = rest := by rw [h.frame]; rfl

/-- Of all the reads only the last one's byte stays. -/
theorem MidPoll.polled_eq (h : MidPoll s rest es n u) (rest' : List Scripted) (es' : List Event) (n' : Nat) (b : Byte) :
    u.polled rest' es' n' b = { s.afterCalls rest' (es ++ es') with
      pollCnt := BitVec.ofNat 16 n', pollTimeout := false, rxbuf := s.rxbuf.set 0 b, rxv := s.rxv ||| 1#33 } := by
  have hbuf : u.rxbuf.set 0 b = s.rxbuf.set 0 b := by
    refine Vector.ext fun j hj => ?_
    rw [Vector.getElem_set, Vector.getElem_set]
    split
    · rfl
    · exact h.bytes j hj (by omega)
  rw [State.polled, hbuf, h.bits, h.frame, ← State.afterCalls_afterCalls s rest]
  rfl

theorem MidPoll.polled (h : MidPoll s rest es n u) (rest' : List Scripted) (es' : List Event) (n' : Nat) (b : Byte) :
    MidPoll s rest' (es ++ es') n' (u.polled rest' es' n' b) := by
  rw [h.polled_eq]
  exact ⟨rfl, fun j hj h0 => Vector.getElem_set_ne (by omega) hj (by omega),
    by rw [BitVec.or_assoc, BitVec.or_self]⟩

theorem MidPoll.afterCalls (h : MidPoll s rest es n u) (rest' : List Scripted) (es' : List Event) :
    MidPoll s rest' (es ++ es') n (u.afterCalls rest' es') := by
  refine ⟨?_, h.bytes, h.bits⟩
  rw [h.frame, ← State.afterCalls_afterCalls s rest]
  rfl

/-- After the not-ready reads `bs` the poll goes on. -/
theorem pollLoop_midPoll (fuel : Nat) {bs : List Byte} {tail : List Scripted}
    (hbs : ∀ x ∈ bs, x.getLsbD s.cfg.measuringBit.val = true) (h : s.bus.script = statusAnswers bs ++ tail) :
    ∃ u, pollLoop (bs.length + fuel) 0 s.pollStart = pollLoop fuel bs.length u ∧
      MidPoll s tail (.sleep s.cfg.tWarmup :: waitEvents s.cfg bs) bs.length u := by
  induction bs using List.reverseRecOn generalizing fuel tail with
  | nil =>
    obtain rfl : s.bus.script = tail := h
    exact ⟨s.pollStart, by rw [List.length_nil, Nat.zero_add], MidPoll.start s⟩
  | append_singleton bs b ih =>
    rw [statusAnswers, List.flatMap_append, List.append_assoc] at h
    obtain ⟨u, hloop, hu⟩ := ih (fuel + 1) (fun x hx => hbs x (List.mem_append_left _ hx)) h
    have hb : b.getLsbD u.cfg.measuringBit.val = true := by
      rw [hu.cfg]
      exact hbs b (List.mem_append_right _ (List.mem_singleton_self b))
    have hpolled := hu.polled tail (waitEvents s.cfg [b]) (bs.length + 1) b
    rw [List.cons_append, waitEvents, waitEvents, ← List.flatMap_append] at hpolled
    rw [List.length_append, List.length_singleton, Nat.add_assoc, Nat.add_comm 1, hloop,
      pollLoop_notReady fuel _ hb hu.script, hu.cfg]
    exact ⟨_, rfl, hpolled⟩

end

/-! ## Whatever answers: the calls a poll makes (R138, 70_reset_and_hazards.md R252) -/

/-- What is left of the script is an end of what stood there. -/
def ScriptLeft (s t : State) : Prop := t.bus.script <:+ s.bus.script

section
variable {s t : State}

/-- A transport call takes nothing from the script but its first entry. -/
theorem ScriptLeft.tail {u : State} (h : ScriptLeft s t) (hu : u.bus.script = t.bus.script.tail) : ScriptLeft s u := by
  rw [ScriptLeft, hu]
  exact (List.tail_suffix _).trans h

theorem tWrite_scriptLeft (a : Byte) (v : Option Byte) (h : ScriptLeft s t) :
    (tWrite a v t).EndsIn (ScriptLeft s) :=
  (tWrite_post a v t).mono (fun _ _ ⟨_, _, hu, _⟩ => h.tail hu) (fun _ _ _ h => h.elim) fun _ ⟨_, _, hu, _⟩ => h.tail hu

theorem tRead_scriptLeft (n : Nat) (h : ScriptLeft s t) : (tRead n t).EndsIn (ScriptLeft s) :=
  (tRead_post n t).mono (fun _ _ ⟨_, _, hu, _⟩ => h.tail hu) (fun _ _ _ h => h.elim) fun _ ⟨_, _, hu, _⟩ => h.tail hu

theorem devBurst_scriptLeft (step : Nat) (a : Byte) (n : Nat) (h : ScriptLeft s t) :
    (devBurst step a n t).EndsIn (ScriptLeft s) := by
  refine (tWrite_scriptLeft a none h).bind fun c u hu => ?_
  split
  · refine (tRead_scriptLeft n hu).bind fun r v hv => ?_
    split
    · exact hv
    · exact hv
  · exact hu

theorem burstInto_scriptLeft (step : Nat) (a : Byte) (n k : Nat) (h : ScriptLeft s t) :
    (burstInto step a n k t).EndsIn (ScriptLeft s) := by
  have hb := devBurst_scriptLeft step a n h
  unfold burstInto
  generalize devBurst step a n t = run at hb ⊢
  cases run with
  | ok bs u => exact hb
  | raised e m u => exact hb
  | hung u => exact hb

end

/-- Two facts about the ends of one stretch are one. -/
theorem Run.Post.and {α : Type} {r : Run α} {p p' : α → State → Prop} {q q' : ErrCode → Nat → State → Prop}
    {h h' : State → Prop} (hr : r.Post p q h) (hr' : r.Post p' q' h') :
    r.Post (fun a s => p a s ∧ p' a s) (fun e n s => q e n s ∧ q' e n s) (fun s => h s ∧ h' s) := by
  cases r with
  | ok a s => exact ⟨hr, hr'⟩
  | raised e n s => exact ⟨hr, hr'⟩
  | hung s => exact ⟨hr, hr'⟩

/-- The events a poll may append: a write of the status register's address, a read of one byte, the two sleeps. -/
def PollEvent (p : Params) (e : Event) : Prop :=
  (∃ c, e = .tWrite [p.addrStatus] c) ∨ (∃ r, e = .tRead 1 r) ∨ e = .sleep p.tWarmup ∨ e = .sleep p.tPoll

/-- From `s` to `t` a poll appends only its own events, at most `n` of them reads, leaves the session and the
parameters as they are, and takes answers from the head of the script only. -/
structure Polls (n : Nat) (s t : State) : Prop where
  cfg : t.cfg = s.cfg
  sess : t.sess = s.sess
  hung : t.hung = s.hung
  script : ScriptLeft s t
  history : ∃ es, t.bus.history = s.bus.history ++ es ∧ es.countP Event.isRead ≤ n ∧ ∀ e ∈ es, PollEvent s.cfg e

section
variable {s t u : State} {m n : Nat}

theorem Polls.refl (s : State) : Polls 0 s s :=
  ⟨rfl, rfl, rfl, List.suffix_rfl, [], (List.append_nil _).symm, Nat.le_refl 0, nofun⟩

theorem Polls.trans (h : Polls m s t) (h' : Polls n t u) : Polls (m + n) s u := by
  obtain ⟨es, he, hc, hp⟩ := h.history
  obtain ⟨es', he', hc', hp'⟩ := h'.history
  refine ⟨h'.cfg.trans h.cfg, h'.sess.trans h.sess, h'.hung.trans h.hung, h'.script.trans h.script, es ++ es', ?_, ?_,
    fun e hm => ?_⟩
  · rw [he', he, List.append_assoc]
  · rw [List.countP_append]
    omega
  · obtain hm | hm := List.mem_append.mp hm
    · exact hp e hm
    · exact h.cfg ▸ hp' e hm

theorem Polls.mono (h : Polls m s t) (hmn : m ≤ n) : Polls n s t := by
  obtain ⟨es, he, hc, hp⟩ := h.history
  exact ⟨h.cfg, h.sess, h.hung, h.script, es, he, hc.trans hmn, hp⟩

/-- Only the transport, the session and the parameters matter. -/
theorem Polls.congr (h : Polls n s t) (hb : u.bus = t.bus) (hc : u.cfg = t.cfg) (hs : u.sess = t.sess)
    (hh : u.hung = t.hung) : Polls n s u :=
  ⟨hc.trans h.cfg, hs.trans h.sess, hh.trans h.hung, by rw [ScriptLeft, hb]; exact h.script,
    by rw [hb]; exact h.history⟩

/-- Calls that are a poll's. -/
theorem CallsOnly.polls {es : List Event} (h : CallsOnly es s t) (hs : ScriptLeft s t)
    (hn : es.countP Event.isRead ≤ n) (hp : ∀ e ∈ es, PollEvent s.cfg e) : Polls n s t := by
  refine ⟨?_, h.sess, ?_, hs, es, h.2.1, hn, hp⟩
  · rw [h.1]
  · rw [h.1]

/-- Everything a status read can do: one read at most, and stuck only when an answer that never comes was chosen. -/
theorem statusRead_post (step : Nat) (s : State) :
    (burstInto step s.cfg.addrStatus 1 0 s).Post (fun _ t => Polls 1 s t) (fun _ _ t => Polls 1 s t)
      (fun t => Polls 1 s t ∧ Scripted.never ∈ s.bus.script) := by
  have hwrite (c : Int) : PollEvent s.cfg (.tWrite [s.cfg.addrStatus] c) := .inl ⟨c, rfl⟩
  have hread (r : Option (List Byte)) : PollEvent s.cfg (.tRead 1 r) := .inr (.inl ⟨r, rfl⟩)
  have hpost := (burstInto_post step s.cfg.addrStatus 1 0 s).and
    (burstInto_scriptLeft step s.cfg.addrStatus 1 0 (s := s) List.suffix_rfl)
  refine hpost.mono ?_ ?_ ?_
  · rintro bs t ⟨⟨-, r, u, -, hc, rfl⟩, hs⟩
    have hu : Polls 1 s u := hc.polls hs (by simp [Event.isRead]) (by simp [hwrite, hread])
    exact hu.congr rfl rfl rfl rfl
  · rintro e m t ⟨⟨-, u, rfl, hc⟩, hs⟩
    have hu : Polls 1 s u := by
      obtain ⟨-, c, -, hc⟩ | ⟨-, r, -, hc⟩ := hc
      · exact hc.polls hs (by simp [Event.isRead]) (by simp [hwrite])
      · exact hc.polls hs (by simp [Event.isRead]) (by simp [hwrite, hread])
    exact hu.congr rfl rfl rfl rfl
  · rintro t ⟨⟨hn, hc | hc⟩, hs⟩
    · exact ⟨hc.polls hs (by simp) nofun, hn⟩
    · exact ⟨hc.polls hs (by simp [Event.isRead]) (by simp [hwrite]), hn⟩

theorem Polls.sleepFor (h : Polls n s t) {d : Duration} (hd : d = s.cfg.tWarmup ∨ d = s.cfg.tPoll) :
    Polls n s (sleepFor d t) := by
  obtain ⟨es, he, hc, hp⟩ := h.history
  refine ⟨h.cfg, h.sess, h.hung, h.script, es ++ [.sleep d], ?_, ?_, fun e hm => ?_⟩
  · rw [Machine.sleepFor, recordEvent_history, he, List.append_assoc]
  · rw [List.countP_append]
    exact hc
  · obtain hm | hm := List.mem_append.mp hm
    · exact hp e hm
    · obtain rfl := List.mem_singleton.mp hm
      obtain rfl | rfl := hd
      · exact .inr (.inr (.inl rfl))
      · exact .inr (.inr (.inr rfl))

theorem pollLoop_post (fuel i : Nat) (s : State) :
    (pollLoop fuel i s).Post (fun _ t => Polls fuel s t) (fun _ _ t => Polls fuel s t)
      (fun t => Polls fuel s t ∧ Scripted.never ∈ s.bus.script) := by
  induction fuel generalizing i s with
  | zero => exact (Polls.refl s).congr rfl rfl rfl rfl
  | succ fuel ih =>
    have hle : 1 ≤ fuel + 1 := Nat.le_add_left 1 fuel
    rw [pollLoop, Run.post_bind]
    refine (statusRead_post (2 * i) s).mono (fun bs t ht => ?_) (fun _ _ _ h => h.mono hle)
      fun _ h => ⟨h.1.mono hle, h.2⟩
    have hcounted : Polls 1 s { t with pollCnt := BitVec.ofNat 16 (i + 1) } := ht.congr rfl rfl rfl rfl
    split
    · have hslept := hcounted.sleepFor (.inr rfl)
      rw [Nat.add_comm fuel 1]
      exact (ih (i + 1) _).mono (fun _ _ h => hslept.trans h) (fun _ _ _ h => hslept.trans h) fun _ h =>
        ⟨hslept.trans h.1, hslept.script.subset h.2⟩
    · exact hcounted.mono hle

end

theorem Polls.start (s : State) : Polls 0 s s.pollStart :=
  ((Polls.refl s).sleepFor (.inl rfl)).congr rfl rfl rfl rfl

/-- Everything `POLL` can do after its checks. -/
theorem pollBody_post (s : State) :
    (pollBody s).Post (fun _ t => Polls s.cfg.pollMax s t) (fun _ _ t => Polls s.cfg.pollMax s t)
      (fun t => Polls s.cfg.pollMax s t ∧ Scripted.never ∈ s.bus.script) := by
  have hadd {t : State} (h : Polls s.cfg.pollMax s.pollStart t) : Polls s.cfg.pollMax s t :=
    ((Polls.start s).trans h).mono (Nat.zero_add _).le
  exact (pollLoop_post s.cfg.pollMax 0 s.pollStart).mono (fun _ _ => hadd) (fun _ _ _ => hadd)
    fun _ h => ⟨hadd h.1, h.2⟩

/-! ## The obligations -/

/-- Settles O36: after the not-ready reads comes the ready one. -/
theorem pollStopsAtTheFirstReadyRead : Obligations.PollStopsAtTheFirstReadyRead := by
  intro s bs b rest hs hlen hbs hb hscript
  obtain ⟨fuel, hfuel⟩ := Nat.exists_eq_add_of_lt hlen
  obtain ⟨u, hloop, hu⟩ := pollLoop_midPoll (fuel + 1) hbs hscript
  rw [exec_poll_of_opened hs, pollBody_eq, hfuel, Nat.add_assoc, hloop, pollLoop_ready _ _ (hu.cfg ▸ hb) hu.script,
    settle, hu.polled_eq, hu.cfg]
  rfl

/-- Settles O37: the last not-ready read leaves none of `POLL_MAX`. -/
theorem pollExhaustedIsNoError : Obligations.PollExhaustedIsNoError := by
  intro s bs b rest hs hlen hbs hscript
  rw [List.flatMap_append, List.append_assoc] at hscript
  obtain ⟨u, hloop, hu⟩ := pollLoop_midPoll 1 (fun x hx => hbs x (List.mem_append_left _ hx)) hscript
  have hb : b.getLsbD u.cfg.measuringBit.val = true := by
    rw [hu.cfg]
    exact hbs b (List.mem_append_right _ (List.mem_singleton_self b))
  rw [exec_poll_of_opened hs, pollBody_eq, ← hlen, hloop, pollLoop_notReady _ _ hb hu.script, pollLoop, settle,
    hu.polled_eq, hu.cfg, List.flatMap_append]
  rfl

/-- Settles O38: after the not-ready reads comes a burst that fails, and drops its one byte. -/
theorem pollFailureCountsCompletedReads : Obligations.PollFailureCountsCompletedReads := by
  intro s bs tail left es number hs hlen hbs hfail hscript
  obtain ⟨fuel, hfuel⟩ := Nat.exists_eq_add_of_lt hlen
  obtain ⟨u, hloop, hu⟩ := pollLoop_midPoll (fuel + 1) hbs hscript
  have hend : pollLoop (fuel + 1) bs.length u = .raised .ioError number (dropBytes 0 1 (u.afterCalls left es)) := by
    refine pollLoop_failure fuel bs.length ?_
    rw [hu.cfg, hu.script]
    exact hfail
  have hv := hu.afterCalls left es
  refine ⟨dropBytes 0 1 (fail .ioError (callNumber number) (u.afterCalls left es)), ?_, ?_, fun j hj h0 => ?_⟩
  · rw [exec_poll_of_opened hs, pollBody_eq, hfuel, Nat.add_assoc, hloop, hend, settle, fail_dropBytes]
  · have hrxv : (dropBytes 0 1 (fail .ioError (callNumber number) (u.afterCalls left es))).rxv = s.rxv &&& ~~~1#33 := by
      rw [← and_not_one_or_one s.rxv, ← hv.bits, and_not_one_or_one, dropBytes_rxv, fail_rxv]
      rfl
    rw [← hrxv, fail_eq, fail_eq, hv.frame]
    rfl
  · rw [dropBytes_getElem_outside _ hj (by omega)]
    simp only [fail_rxbuf]
    exact hv.bytes j hj h0

/-- Settles O39: at every end of the loop the calls made are a poll's, and it is stuck only where an answer that never comes was chosen. -/
theorem pollIsBounded : Obligations.PollIsBounded := by
  intro s hs
  rw [exec_poll_of_opened hs]
  have hpost := pollBody_post s
  generalize pollBody s = run at hpost ⊢
  cases run with
  | ok _ t =>
    have h : Polls s.cfg.pollMax s t := hpost
    obtain ⟨es, he, hc, hp⟩ := h.history
    exact ⟨_, es, rfl, he, hc, hp, fun ha => ⟨h.hung.trans ha.1, .inl (h.sess.trans hs)⟩⟩
  | raised e m t =>
    have h : Polls s.cfg.pollMax s t := hpost
    obtain ⟨es, he, hc, hp⟩ := h.history
    refine ⟨_, es, rfl, ?_, hc, hp, fun ha => ⟨?_, .inr (fail_sess_of_opened (h.sess.trans hs) e (callNumber m))⟩⟩
    · rw [settle, fail_bus, he]
    · rw [settle, fail_eq]
      exact h.hung.trans ha.1
  | hung t =>
    obtain ⟨h, hnever⟩ := hpost
    obtain ⟨es, he, hc, hp⟩ := h.history
    exact ⟨_, es, rfl, he, hc, hp, fun ha => absurd hnever ha.2⟩

end Sys2Proof.Machine
end

section
/-! SUPPORT. `CHKID`, `LDCAL` and `RDRAW` that fail (60_exceptions.md R221, R224): which call is recorded, and what is
kept. -/

namespace Sys2Proof.Machine

/-! ## What bursts into the receive buffer touch -/

/-- `t` is `s` but for the transport, the count of free values and the receive buffer. -/
def BurstOnly (s t : State) : Prop :=
  t = { s with bus := t.bus, draws := t.draws, rxbuf := t.rxbuf, rxv := t.rxv }

/-- The answer of a burst's call is not the one asked for: the address write's count is not 1, or the read has another
length (20_memory.md R66). -/
def BadAnswer (e : Event) : Prop :=
  (∃ a c, e = .tWrite [a] c ∧ c ≠ 1) ∨ (∃ n r, e = .tRead n r ∧ (r.getD []).length ≠ n)

/-- From `s` to `t` bursts alone made `m` calls. -/
def BurstCalls (m : Nat) (s t : State) : Prop :=
  BurstOnly s t ∧ ∃ es, t.bus.history = s.bus.history ++ es ∧ es.length = m

/-- From `s` to `t` bursts alone made `m` calls and then one with a bad answer, the last. -/
def BurstFailsAt (m : Nat) (s t : State) : Prop :=
  BurstOnly s t ∧ ∃ es last, t.bus.history = s.bus.history ++ es ++ [last] ∧ es.length = m ∧ BadAnswer last

section
variable {s t u : State} {m n : Nat}

theorem BurstOnly.trans (h : BurstOnly s t) (h' : BurstOnly t u) : BurstOnly s u := by
  unfold BurstOnly at *
  rw [h', h]

theorem BusOnly.burstOnly (h : BusOnly s t) : BurstOnly s t := by
  unfold BurstOnly
  rw [h]

theorem BurstOnly.putBytes (h : BurstOnly s t) (k : Nat) (bs : List Byte) : BurstOnly s (putBytes k bs t) :=
  h.trans rfl

theorem BurstOnly.dropBytes (h : BurstOnly s t) (k n : Nat) : BurstOnly s (dropBytes k n t) := h.trans rfl

theorem BurstOnly.sess (h : BurstOnly s t) : t.sess = s.sess := by rw [h]

theorem BurstCalls.refl (s : State) : BurstCalls 0 s s := ⟨rfl, [], (List.append_nil _).symm, rfl⟩

theorem BurstCalls.trans (h : BurstCalls m s t) (h' : BurstCalls n t u) : BurstCalls (m + n) s u := by
  obtain ⟨hb, es, he, hl⟩ := h
  obtain ⟨hb', es', he', hl'⟩ := h'
  exact ⟨hb.trans hb', es ++ es', by rw [he', he, List.append_assoc], by rw [List.length_append, hl, hl']⟩

theorem BurstCalls.failsAt (h : BurstCalls m s t) (h' : BurstFailsAt n t u) : BurstFailsAt (m + n) s u := by
  obtain ⟨hb, es, he, hl⟩ := h
  obtain ⟨hb', es', last, he', hl', hbad⟩ := h'
  exact ⟨hb.trans hb', es ++ es', last, by rw [he', he, List.append_assoc _ es], by rw [List.length_append, hl, hl'],
    hbad⟩

end

/-- Everything a burst into the receive buffer can do, by the number of its calls. -/
theorem burstInto_calls (step : Nat) (a : Byte) (n k : Nat) (s : State) :
    (burstInto step a n k s).Post (fun _ t => BurstCalls 2 s t)
      (fun e m t => e = .ioError ∧ ∃ j < 2, m = step + j ∧ BurstFailsAt j s t) (fun t => t.sess = s.sess) := by
  refine (burstInto_post step a n k s).mono ?_ ?_ ?_
  · rintro bs t ⟨-, r, u, -, ⟨hb, hh, -⟩, rfl⟩
    exact ⟨hb.burstOnly.putBytes k bs, _, hh, rfl⟩
  · rintro e m t ⟨he, u, rfl, ⟨rfl, c, hc, hb, hh, -⟩ | ⟨rfl, r, hr, hb, hh, -⟩⟩
    · refine ⟨he, 0, by decide, rfl, hb.burstOnly.dropBytes k n, [], .tWrite [a] c, ?_, rfl, .inl ⟨a, c, rfl, hc⟩⟩
      rw [List.append_nil]
      exact hh
    · refine ⟨he, 1, by decide, rfl, hb.burstOnly.dropBytes k n, [.tWrite [a] 1], .tRead n r, ?_, rfl,
        .inr ⟨n, r, rfl, hr⟩⟩
      rw [List.append_assoc]
      exact hh
  · rintro t ⟨-, hc | hc⟩
    · exact hc.sess
    · exact hc.sess

/-- `m` is the number of a call of `i`, a command that reads by bursts and then decodes: `LDCAL` has four calls, the
others have two. -/
def FailingCall (i : Instr) (m : Nat) : Prop := m = 0 ∨ m = 1 ∨ (i = .ldcal ∧ (m = 2 ∨ m = 3))

theorem FailingCall.le {i : Instr} {m : Nat} (h : FailingCall i m) : m ≤ 0xFFFE := by
  obtain rfl | rfl | ⟨-, rfl | rfl⟩ := h <;> decide

/-- What the pseudocode of the command `i`, begun in `s`, can do to the session and to what a failure keeps. -/
def FixedRead (i : Instr) (s : State) (r : Run Unit) : Prop :=
  r.Post (fun _ t => t.sess = s.sess) (fun e m t => e = .ioError ∧ FailingCall i m ∧ BurstFailsAt m s t)
    (fun t => t.sess = s.sess)

/-- A burst after `step` calls of bursts, and then an update `f` that leaves the session alone. -/
theorem lastBurst_fixedRead {i : Instr} {s t : State} {step : Nat} (hst : BurstCalls step s t)
    (hi : ∀ m < step + 2, FailingCall i m) (a : Byte) (n k : Nat) {f : List Byte → State → State}
    (hf : ∀ bs u, (f bs u).sess = u.sess) :
    FixedRead i s ((burstInto step a n k t).bind fun bs u => .ok () (f bs u)) := by
  rw [FixedRead, Run.post_bind]
  refine (burstInto_calls step a n k t).mono ?_ ?_ fun u hu => hu.trans hst.1.sess
  · rintro bs u ⟨hu, -⟩
    exact (hf bs u).trans (hu.sess.trans hst.1.sess)
  · rintro e m u ⟨he, j, hj, rfl, hfail⟩
    exact ⟨he, hi _ (Nat.add_lt_add_left hj step), hst.failsAt hfail⟩

theorem bodyOf_fixedRead {i : Instr} (hi : i = .chkid ∨ i = .ldcal ∨ i = .rdraw) (s : State) :
    FixedRead i s (bodyOf i s) := by
  have hs := BurstCalls.refl s
  have htwo (i : Instr) (m : Nat) (hm : m < 0 + 2) : FailingCall i m := by
    rw [FailingCall]
    omega
  obtain rfl | rfl | rfl := hi
  · exact lastBurst_fixedRead hs (htwo _) _ _ _ (f := fun bs => noteChipId (bs.headD 0)) fun _ _ => rfl
  · have hfour (m : Nat) (hm : m < 2 + 2) : FailingCall .ldcal m := by
      have hcases : m = 0 ∨ m = 1 ∨ m = 2 ∨ m = 3 := by omega
      exact hcases.imp_right (Or.imp_right fun h => ⟨rfl, h⟩)
    rw [FixedRead, bodyOf, ldcalBody, Run.post_bind]
    refine (burstInto_calls 0 _ _ _ s).mono (fun _ t ht => ?_) ?_ fun _ h => h
    · exact lastBurst_fixedRead ht hfour _ _ _ (f := fun _ => loadCal) fun _ _ => rfl
    · rintro e m t ⟨he, j, hj, rfl, hfail⟩
      exact ⟨he, htwo _ _ (Nat.add_lt_add_left hj 0), hs.failsAt hfail⟩
  · exact lastBurst_fixedRead hs (htwo _) _ _ _ (f := fun _ => loadRaw) fun _ _ => rfl

/-- Below the saturation `ERRSTEP` is the call's number (R221). -/
theorem callNumber_toNat {m : Nat} (h : m ≤ 0xFFFE) : (callNumber m).toNat = m := by
  rw [callNumber, Nat.min_eq_left h, BitVec.toNat_ofNat, Nat.mod_eq_of_lt (by omega)]

/-- In an open session with no error a `CHKID`, `LDCAL` or `RDRAW` that ends aborted is a burst that failed. -/
theorem exec_fixedRead_aborted {i : Instr} {s t : State}
    (hi : i = .chkid ∨ (i = .ldcal ∧ s.calValid = false) ∨ i = .rdraw) (hs : s.sess = .opened) (herr : s.err = .clear)
    (he : exec i s = .next t) (ht : t.sess = .aborted) :
    ∃ m u, FailingCall i m ∧ BurstFailsAt m s u ∧
      t = { u with err := .ioError, errCmd := s.lastCmd, errStep := callNumber m, sess := .aborted } := by
  have hbody : exec i s = .next (settle (bodyOf i s)) := by
    obtain rfl | ⟨rfl, hc⟩ | rfl := hi
    · exact exec_chkid_of_opened hs
    · exact exec_ldcal_of_opened hs hc
    · exact exec_rdraw_of_opened hs
  obtain rfl := Host.Outcome.next.inj (hbody.symm.trans he)
  have hpost := bodyOf_fixedRead (hi.imp_right (Or.imp_left And.left)) s
  generalize bodyOf i s = run at hpost ht ⊢
  cases run with
  | ok _ u =>
    have hsess : u.sess = s.sess := hpost
    exact nomatch ht.symm.trans (hsess.trans hs)
  | raised e m u =>
    obtain ⟨rfl, hm, hfail⟩ := hpost
    obtain ⟨hu, -⟩ := id hfail
    refine ⟨m, u, hm, hfail, ?_⟩
    have huerr : u.err = .clear := by rw [hu]; exact herr
    have hulast : u.lastCmd = s.lastCmd := by rw [hu]
    rw [settle, fail_of_opened (hu.sess.trans hs) huerr, hulast]
  | hung u =>
    have hsess : u.sess = s.sess := hpost
    exact nomatch ht.symm.trans (hsess.trans hs)

/-! ## The obligations -/

/-- Settles O42: the failing call is the last one of a burst, and bursts touch no register but the receive buffer. -/
theorem failedReadKeepsDataRegisters : Obligations.FailedReadKeepsDataRegisters := by
  refine ⟨fun i s t hi hs herr he ht => ?recorded, fun i a n s es left number hi hs hfail => ?buffer⟩
  case recorded =>
    obtain ⟨m, u, hm, ⟨hu, es, last, hh, hl, hbad⟩, rfl⟩ := exec_fixedRead_aborted hi hs herr he ht
    have hnum : (callNumber m).toNat = m := callNumber_toNat hm.le
    refine ⟨rfl, rfl, ?_, ⟨es, last, hh, hl.trans hnum.symm, hbad⟩, ?_⟩
    · have hstep (j : Nat) (hj : m = j) : callNumber m = callNumber j := congrArg callNumber hj
      exact hm.imp (hstep 0) (Or.imp (hstep 1) (And.imp_right (Or.imp (hstep 2) (hstep 3))))
    · rw [hu]
      exact ⟨rfl, rfl, rfl, rfl, rfl, rfl, rfl, rfl, rfl, rfl, rfl, rfl, rfl, rfl, rfl, rfl, rfl⟩
  case buffer =>
    have hexec : exec i s = .next (s.afterFailedBurst left es 0 n number) := by
      obtain ⟨rfl, rfl, rfl⟩ | ⟨rfl, rfl, rfl⟩ := hi
      · exact exec_of_failed_first_burst (exec_chkid_of_opened hs) hfail
      · exact exec_of_failed_first_burst (exec_rdraw_of_opened hs) hfail
    exact ⟨_, hexec, s.afterFailedBurst_frame left es 0 n number, s.afterFailedBurst_zero left es n number⟩

end Sys2Proof.Machine
end

section
/-! SUPPORT. The bit-unpacking unit (43_unpack.md): each pattern it assembles from bytes and nibbles, as a number. -/

namespace Sys2Proof.Machine

/-! ## Bytes and nibbles as numbers -/

/-- The unsigned counterpart of `BitVec.toInt_append`: the high part counts `2 ^ m` fold. -/
theorem toNat_append_eq_add {n m : Nat} (x : BitVec n) (y : BitVec m) :
    (x ++ y).toNat = 2 ^ m * x.toNat + y.toNat := by
  rw [BitVec.toNat_append, ← Nat.shiftLeft_add_eq_or_of_lt y.isLt, Nat.shiftLeft_eq, Nat.mul_comm]

theorem lowNibble_toNat (b : Byte) : (b.extractLsb' 0 4).toNat = b.toNat % 16 := by
  rw [BitVec.extractLsb'_toNat, Nat.shiftRight_zero]

theorem highNibble_toNat (b : Byte) : (b.extractLsb' 4 4).toNat = b.toNat / 16 := by
  rw [BitVec.extractLsb'_toNat, Nat.shiftRight_eq_div_pow]
  exact Nat.mod_eq_of_lt (Nat.div_lt_of_lt_mul b.isLt)

/-! ## The values of the assembled patterns (R157, R163, R164, R167, R168) -/

theorem le16_toNat (lo hi : Byte) : (le16 lo hi).toNat = lo.toNat + 256 * hi.toNat :=
  (toNat_append_eq_add hi lo).trans (Nat.add_comm _ _)

theorem le16_toInt (lo hi : Byte) : (le16 lo hi).toInt = lo.toNat + 256 * hi.toInt :=
  BitVec.toInt_append.trans (Int.add_comm _ _)

/-- A byte above a nibble: the reading of `H45_SIGNED` is the reading of the byte. -/
theorem packedField_toInt (signed : Bool) (hi : Byte) (nibble : BitVec 4) :
    (packedField signed (hi ++ nibble)).toInt =
      16 * (if signed then hi.toInt else (hi.toNat : Int)) + nibble.toNat := by
  cases signed with
  | true => exact (BitVec.toInt_signExtend_of_le (by decide)).trans BitVec.toInt_append
  | false =>
    have hval : ((hi ++ nibble).setWidth 16).toNat = 16 * hi.toNat + nibble.toNat :=
      (BitVec.toNat_setWidth_of_le (by decide)).trans (toNat_append_eq_add hi nibble)
    have hpos : 2 * ((hi ++ nibble).setWidth 16).toNat < 2 ^ 16 := by omega
    exact (BitVec.toInt_eq_toNat_of_lt hpos).trans (congrArg Nat.cast hval)

theorem packedH4_toInt (signed : Bool) (b3 b4 : Byte) :
    (packedField signed (packedH4 b3 b4)).toInt =
      16 * (if signed then b3.toInt else (b3.toNat : Int)) + (b4.toNat % 16 : Nat) := by
  rw [packedH4, packedField_toInt, lowNibble_toNat]

theorem packedH5_toInt (signed : Bool) (b4 b5 : Byte) :
    (packedField signed (packedH5 b4 b5)).toInt =
      16 * (if signed then b5.toInt else (b5.toNat : Int)) + (b4.toNat / 16 : Nat) := by
  rw [packedH5, packedField_toInt, highNibble_toNat]

theorem raw20_toNat (r0 r1 r2 : Byte) :
    (raw20 r0 r1 r2).toNat = 4096 * r0.toNat + 16 * r1.toNat + r2.toNat / 16 := by
  rw [raw20, toNat_append_eq_add, toNat_append_eq_add, highNibble_toNat]
  omega

theorem raw16_toNat (r6 r7 : Byte) : (raw16 r6 r7).toNat = 256 * r6.toNat + r7.toNat := toNat_append_eq_add r6 r7

/-! ## The obligations -/

/-- Settles O43: with the whole buffer valid `UNPKC` is `loadCal`, and each coefficient a pattern with a known value. -/
theorem unpkcDecodesEveryCoefficient : Obligations.UnpkcDecodesEveryCoefficient := by
  intro s hs hc hv
  have hexec : exec .unpkc s = .next (loadCal s) :=
    exec_unpkc_of_opened hs hc ((rxvCovers_iff s.rxv 33 (Nat.le_refl 33)).mpr hv)
  exact ⟨loadCal s, hexec, rfl, le16_toNat _ _, le16_toInt _ _, le16_toInt _ _, le16_toNat _ _, le16_toInt _ _,
    le16_toInt _ _, le16_toInt _ _, le16_toInt _ _, le16_toInt _ _, le16_toInt _ _, le16_toInt _ _, le16_toInt _ _,
    rfl, le16_toInt _ _, rfl, rfl, packedH4_toInt _ _ _, packedH5_toInt _ _ _⟩

/-- Settles O44: `H4` stands above the low nibble of the shared byte and `H5` above its high nibble. -/
theorem packedCoefficientsOwnTheirNibbles : Obligations.PackedCoefficientsOwnTheirNibbles :=
  ⟨rfl, fun _ _ => ⟨packedH4_toInt _ _ _, packedH5_toInt _ _ _⟩⟩

/-- Settles O45: a write at offset 24 keeps every other byte, and no coefficient's rule has that one. -/
theorem unusedCalibrationByteIsIgnored : Obligations.UnusedCalibrationByteIsIgnored := by
  intro signed r x
  have hkept (i : Nat) (hi : i < 33) (hne : 24 ≠ i) : (r.set 24 x)[i] = r[i] := Vector.getElem_set_ne _ hi hne
  simp [unpackCal, hkept]

/-- Settles O46: with its eight bytes valid `UNPKR` is `loadRaw`, and each count is a pattern with a known value. -/
theorem unpkrAssemblesTheCounts : Obligations.UnpkrAssemblesTheCounts := by
  intro s hs hv
  have hexec : exec .unpkr s = .next (loadRaw s) :=
    exec_unpkr_of_opened hs ((rxvCovers_iff s.rxv 8 (by decide)).mpr hv)
  exact ⟨loadRaw s, hexec, rfl, raw20_toNat _ _ _, raw20_toNat _ _ _, raw16_toNat _ _⟩

end Sys2Proof.Machine
end

section
/-! SUPPORT. The compensation engine (44_compensation.md): the three transforms step by step, as two's-complement
arithmetic and as exact arithmetic under the condition that no operation of the step overflows, and the commands that
store their results. -/

namespace Sys2Proof.Machine

/-! ## Shared arithmetic facts (00_scope.md R15, R16) -/

section
variable {N : Nat} {f : Fixed N} {z : Int} {P Q : Prop}

/-- The same claim with its condition said in another way. -/
theorem Fixed.Exact.of_iff (h : f.Exact z P) (hPQ : P ↔ Q) : f.Exact z Q := propext hPQ ▸ h

/-- An exact value that fits survives being stored as a pattern. -/
theorem Fixed.Exact.toInt_ofInt_val (hN : 0 < N) (h : f.Exact z P) (hP : P) (hz : signedFits N z) :
    (BitVec.ofInt N f.val).toInt = z := by
  rw [h.val hP, toInt_ofInt_of_fits hN hz]

/-- A shift to the right does not leave the range. -/
theorem signedFits.ediv_two_pow (h : signedFits N z) (n : Nat) : signedFits N (z / 2 ^ n) := by
  obtain ⟨hl, hu⟩ := h
  have hp : (1 : Int) ≤ 2 ^ n := one_le_pow₀ (by norm_num)
  have hw : (2 : Int) ^ (N - 1) ≤ 2 ^ (N - 1) * 2 ^ n := le_mul_of_one_le_right (by positivity) hp
  exact ⟨(Int.le_ediv_iff_mul_le (by omega)).mpr (by linarith), (Int.ediv_lt_iff_lt_mul (by omega)).mpr (by omega)⟩

theorem Fixed.Holds.val_eq {v : BitVec N} (h : f.Holds v) : f.val = v.toInt := h

theorem Fixed.Holds.val_eq_zero_iff {v : BitVec N} (h : f.Holds v) : f.val = 0 ↔ v = 0 := by
  rw [h.val_eq, ← BitVec.toInt_inj]
  simp

/-- A logical shift of an unsigned input narrower than the word is the arithmetic one. -/
theorem Fixed.holds_unsigned_shr {k : Nat} (hk : k < N) (c : BitVec k) (n : Nat) :
    ((Fixed.unsigned c : Fixed N).shr n).Holds (c.setWidth N >>> n) := by
  have hmsb : (c.setWidth N).msb = false := by
    rw [BitVec.msb_setWidth, BitVec.getLsbD_of_ge c (N - 1) (by omega), Bool.and_false]
  rw [← BitVec.sshiftRight_eq_of_msb_false hmsb]
  exact (Fixed.holds_unsigned hk c).shr n

end

/-! ## Temperature (R177 to R181) -/

section
variable (adcT : BitVec 20) (t1 t2 t3 : BitVec 16)

theorem tempTerm1_holds : (tempTerm1 adcT t1 t2).Holds
    ((((adcT.setWidth 32 >>> 3) - (t1.setWidth 32 <<< 1)) * t2.signExtend 32).sshiftRight 11) :=
  (((Fixed.holds_unsigned_shr (by decide) adcT 3).sub ((Fixed.holds_unsigned (by decide) t1).shl 1)).mul
    (Fixed.holds_signed (by decide) t2)).shr 11

theorem tempDiff_holds : (tempDiff adcT t1).Holds ((adcT.setWidth 32 >>> 4) - t1.setWidth 32) :=
  (Fixed.holds_unsigned_shr (by decide) adcT 4).sub (Fixed.holds_unsigned (by decide) t1)

theorem tempTerm2_holds {b : BitVec 32} (hb : (tempDiff adcT t1).Holds b) :
    (tempTerm2 adcT t1 t3).Holds (((b * b).sshiftRight 12 * t3.signExtend 32).sshiftRight 14) :=
  (((hb.mul hb).shr 12).mul (Fixed.holds_signed (by decide) t3)).shr 14

theorem tempCenti_holds {f : Fixed 32} {tf : BitVec 32} (hf : f.Holds tf) :
    (tempCenti f).Holds ((tf * 5#32 + 128#32).sshiftRight 8) :=
  ((hf.mul (Fixed.holds_ofInt (by decide) 5 ⟨by decide, by decide⟩)).add (Fixed.holds_ofInt (by decide) 128
    ⟨by decide, by decide⟩)).shr 8

theorem tempTerm1_exact {a : Int} (ha : a = (adcT.toNat : Int) / 2 ^ 3 - t1.toNat * 2) :
    (tempTerm1 adcT t1 t2).Exact (a * t2.toInt / 2 ^ 11)
      (∀ z ∈ ([(t1.toNat : Int) * 2, a, a * t2.toInt] : List Int), signedFits 32 z) := by
  have h := ((((Fixed.exact_unsigned adcT).shr 3).sub (by decide)
    ((Fixed.exact_unsigned t1).shl (by decide) 1)).mul (N := 32) (by decide) (Fixed.exact_signed t2)).shr 11
  rw [ha]
  exact h.of_iff (by simp [and_assoc])

theorem tempDiff_exact {b : Int} (hb : b = (adcT.toNat : Int) / 2 ^ 4 - t1.toNat) :
    (tempDiff adcT t1).Exact b (signedFits 32 b) := by
  rw [hb]
  exact (((Fixed.exact_unsigned adcT).shr 4).sub (by decide) (Fixed.exact_unsigned t1)).of_iff (by simp)

theorem tempTerm2_exact {b s : Int} (hb : b = (adcT.toNat : Int) / 2 ^ 4 - t1.toNat) (hs : s = b * b / 2 ^ 12) :
    (tempTerm2 adcT t1 t3).Exact (s * t3.toInt / 2 ^ 14)
      (∀ z ∈ ([b, b * b, s * t3.toInt] : List Int), signedFits 32 z) := by
  have hd := tempDiff_exact adcT t1 hb
  have h := (((hd.mul (by decide) hd).shr 12).mul (by decide) (Fixed.exact_signed t3)).shr 14
  rw [hs]
  exact h.of_iff (by simp [and_assoc])

theorem tempCenti_exact {f : Fixed 32} {tf : Int} {P : Prop} (hf : f.Exact tf P) :
    (tempCenti f).Exact ((tf * 5 + 128) / 2 ^ 8) (P ∧ signedFits 32 (tf * 5) ∧ signedFits 32 (tf * 5 + 128)) := by
  have h := ((hf.mul (by decide) (Fixed.exact_ofInt 5)).add (by decide) (Fixed.exact_ofInt 128)).shr 8
  exact h.of_iff (by simp [and_assoc])

end

/-- Settles O50: the two terms, their sum and its scaling, first as patterns, then as exact numbers. -/
theorem temperatureIsExactWithoutOverflow : Obligations.TemperatureIsExactWithoutOverflow := by
  intro adcT t1 t2 t3
  constructor
  · intro a b tf ha hb htf
    have hfine : (tempFine adcT t1 t2 t3).Holds tf := by
      rw [htf, ha, hb]
      exact (tempTerm1_holds adcT t1 t2).add (tempTerm2_holds adcT t1 t3 (tempDiff_holds adcT t1))
    rw [compT_tFine, compT_t]
    exact ⟨hfine.ofInt_val, (tempCenti_holds hfine).ofInt_val⟩
  · intro a b s tf ha hb hs htf
    have hfine := (tempTerm1_exact adcT t1 t2 ha).add (by decide) (tempTerm2_exact adcT t1 t3 hb hs)
    rw [← htf] at hfine
    have hcenti := tempCenti_exact hfine
    rw [compT_ovf, compT_tFine, compT_t]
    refine ⟨hcenti.ovf.trans (by simp [and_assoc]), fun hovf => ?_⟩
    obtain ⟨hfits, hfit5, hfit⟩ := hcenti.ovf.mp hovf
    exact ⟨hfine.toInt_ofInt_val (by decide) hfits hfits.2,
      hcenti.toInt_ofInt_val (by decide) ⟨hfits, hfit5, hfit⟩ (hfit.ediv_two_pow 8)⟩

/-! ## Pressure (R183 to R190) -/

section
variable {f g : Fixed 64} (c : CalFile)

theorem pressBase_holds (tFine : Word) : (pressBase tFine).Holds (tFine.signExtend 64 - 128000#64) :=
  (Fixed.holds_signed (by decide) tFine).sub (Fixed.holds_ofInt (by decide) 128000 ⟨by decide, by decide⟩)

theorem pressOffset_holds {v1 : BitVec 64} (hv : f.Holds v1) :
    (pressOffset f c).Holds
      (v1 * v1 * c.p6.signExtend 64 + ((v1 * c.p5.signExtend 64) <<< 17) + (c.p4.signExtend 64 <<< 35)) :=
  (((hv.mul hv).mul (Fixed.holds_signed (by decide) c.p6)).add
    ((hv.mul (Fixed.holds_signed (by decide) c.p5)).shl 17)).add ((Fixed.holds_signed (by decide) c.p4).shl 35)

theorem pressSlope_holds {v1 : BitVec 64} (hv : f.Holds v1) :
    (pressSlope f c).Holds
      ((v1 * v1 * c.p3.signExtend 64).sshiftRight 8 + ((v1 * c.p2.signExtend 64) <<< 12)) :=
  (((hv.mul hv).mul (Fixed.holds_signed (by decide) c.p3)).shr 8).add
    ((hv.mul (Fixed.holds_signed (by decide) c.p2)).shl 12)

theorem pressDenom_holds {v1 : BitVec 64} (hv : f.Holds v1) :
    (pressDenom f c).Holds
      ((((1#64 <<< 47) + ((v1 * v1 * c.p3.signExtend 64).sshiftRight 8 + ((v1 * c.p2.signExtend 64) <<< 12))) *
        c.p1.setWidth 64).sshiftRight 33) :=
  ((((Fixed.holds_ofInt (by decide) 1 ⟨by decide, by decide⟩).shl 47).add (pressSlope_holds c hv)).mul
    (Fixed.holds_unsigned (by decide) c.p1)).shr 33

theorem pressQuot_holds (adcP : BitVec 20) {v2 d : BitVec 64} (hv : f.Holds v2) (hd : g.Holds d) :
    (pressQuot adcP f g).Holds (((((1048576#64 - adcP.setWidth 64) <<< 31) - v2) * 3125#64).sdiv d) :=
  ((((((Fixed.holds_ofInt (by decide) 1048576 ⟨by decide, by decide⟩).sub
    (Fixed.holds_unsigned (by decide) adcP)).shl 31).sub hv).mul
    (Fixed.holds_ofInt (by decide) 3125 ⟨by decide, by decide⟩)).div hd)

theorem pressCorrect_holds {q : BitVec 64} (hq : f.Holds q) :
    (pressCorrect f c).Holds
      ((q + (c.p9.signExtend 64 * q.sshiftRight 13 * q.sshiftRight 13).sshiftRight 25 +
        (c.p8.signExtend 64 * q).sshiftRight 19).sshiftRight 8 + (c.p7.signExtend 64 <<< 4)) :=
  (((hq.add ((((Fixed.holds_signed (by decide) c.p9).mul (hq.shr 13)).mul (hq.shr 13)).shr 25)).add
    (((Fixed.holds_signed (by decide) c.p8).mul hq).shr 19)).shr 8).add
    ((Fixed.holds_signed (by decide) c.p7).shl 4)

/-- `r mod 2^32` as the low half of the pattern of `r` (R190). -/
theorem pressFinish_p {r : BitVec 64} (hr : f.Holds r) : (pressFinish f).p = r.setWidth 32 := by
  rw [← BitVec.signExtend_eq_setWidth_of_le r (by decide), BitVec.signExtend, ← hr.val_eq, pressFinish]

variable {P Q : Prop}

theorem pressBase_exact (tFine : Word) :
    (pressBase tFine).Exact (tFine.toInt - 128000) (signedFits 64 (tFine.toInt - 128000)) :=
  ((Fixed.exact_signed tFine).sub (by decide) (Fixed.exact_ofInt 128000)).of_iff (by simp)

theorem pressOffset_exact {v1 : Int} (hv : f.Exact v1 P) :
    (pressOffset f c).Exact (v1 * v1 * c.p6.toInt + v1 * c.p5.toInt * 2 ^ 17 + c.p4.toInt * 2 ^ 35)
      (P ∧ ∀ z ∈ ([v1 * v1, v1 * v1 * c.p6.toInt, v1 * c.p5.toInt, v1 * c.p5.toInt * 2 ^ 17,
        v1 * v1 * c.p6.toInt + v1 * c.p5.toInt * 2 ^ 17, c.p4.toInt * 2 ^ 35,
        v1 * v1 * c.p6.toInt + v1 * c.p5.toInt * 2 ^ 17 + c.p4.toInt * 2 ^ 35] : List Int), signedFits 64 z) := by
  have h := (((hv.mul (by decide) hv).mul (by decide) (Fixed.exact_signed c.p6)).add (by decide)
    ((hv.mul (by decide) (Fixed.exact_signed c.p5)).shl (by decide) 17)).add (by decide)
    ((Fixed.exact_signed c.p4).shl (by decide) 35)
  exact h.of_iff (by simp only [List.forall_mem_cons]; tauto)

theorem pressSlope_exact {v1 : Int} (hv : f.Exact v1 P) :
    (pressSlope f c).Exact (v1 * v1 * c.p3.toInt / 2 ^ 8 + v1 * c.p2.toInt * 2 ^ 12)
      (P ∧ ∀ z ∈ ([v1 * v1, v1 * v1 * c.p3.toInt, v1 * c.p2.toInt, v1 * c.p2.toInt * 2 ^ 12,
        v1 * v1 * c.p3.toInt / 2 ^ 8 + v1 * c.p2.toInt * 2 ^ 12] : List Int), signedFits 64 z) := by
  have h := (((hv.mul (by decide) hv).mul (by decide) (Fixed.exact_signed c.p3)).shr 8).add (by decide)
    ((hv.mul (by decide) (Fixed.exact_signed c.p2)).shl (by decide) 12)
  exact h.of_iff (by simp only [List.forall_mem_cons]; tauto)

theorem pressDenom_exact {v1 e : Int} (hv : f.Exact v1 P)
    (he : e = v1 * v1 * c.p3.toInt / 2 ^ 8 + v1 * c.p2.toInt * 2 ^ 12) :
    (pressDenom f c).Exact ((2 ^ 47 + e) * c.p1.toNat / 2 ^ 33)
      (P ∧ ∀ z ∈ ([v1 * v1, v1 * v1 * c.p3.toInt, v1 * c.p2.toInt, v1 * c.p2.toInt * 2 ^ 12, e, 2 ^ 47, 2 ^ 47 + e,
        (2 ^ 47 + e) * c.p1.toNat] : List Int), signedFits 64 z) := by
  have hs := pressSlope_exact c hv
  rw [← he] at hs
  have h := ((((Fixed.exact_ofInt 1).shl (by decide) 47).add (by decide) hs).mul (by decide)
    (Fixed.exact_unsigned c.p1)).shr 33
  rw [one_mul] at h
  exact h.of_iff (by simp only [List.forall_mem_cons]; tauto)

theorem pressQuot_exact (adcP : BitVec 20) {v2 d p : Int} (hv : f.Exact v2 P) (hd : g.Exact d Q)
    (hp : p = 1048576 - (adcP.toNat : Int)) :
    (pressQuot adcP f g).Exact (((p * 2 ^ 31 - v2) * 3125).tdiv d)
      ((P ∧ Q) ∧ ∀ z ∈ ([p, p * 2 ^ 31, p * 2 ^ 31 - v2, (p * 2 ^ 31 - v2) * 3125,
        ((p * 2 ^ 31 - v2) * 3125).tdiv d] : List Int), signedFits 64 z) := by
  have h := (((((Fixed.exact_ofInt 1048576).sub (by decide) (Fixed.exact_unsigned adcP)).shl (by decide) 31).sub
    (by decide) hv).mul (by decide) (Fixed.exact_ofInt 3125)).div (by decide) hd
  rw [← hp] at h
  exact h.of_iff (by simp only [List.forall_mem_cons]; tauto)

theorem pressCorrect_exact {q g c1 c2 : Int} (hq : f.Exact q P) (hg : g = q / 2 ^ 13)
    (h1 : c1 = c.p9.toInt * g * g / 2 ^ 25) (h2 : c2 = c.p8.toInt * q / 2 ^ 19) :
    (pressCorrect f c).Exact ((q + c1 + c2) / 2 ^ 8 + c.p7.toInt * 2 ^ 4)
      (P ∧ ∀ z ∈ ([c.p9.toInt * g, c.p9.toInt * g * g, q + c1, c.p8.toInt * q, q + c1 + c2, c.p7.toInt * 2 ^ 4,
        (q + c1 + c2) / 2 ^ 8 + c.p7.toInt * 2 ^ 4] : List Int), signedFits 64 z) := by
  have h := (((hq.add (by decide) ((((Fixed.exact_signed c.p9).mul (by decide) (hq.shr 13)).mul (by decide)
    (hq.shr 13)).shr 25)).add (by decide) (((Fixed.exact_signed c.p8).mul (by decide) hq).shr 19)).shr 8).add
    (by decide) ((Fixed.exact_signed c.p7).shl (by decide) 4)
  rw [← hg, ← h1, ← h2] at h
  exact h.of_iff (by simp only [List.forall_mem_cons]; tauto)

/-- The report of R187 to R190: of what `v2` and `d` already reported, and where the quotient is taken of what comes
after them. -/
theorem pressFrom_ovf (adcP : BitVec 20) {v2 d r : Int} {R : Prop} (hv : f.Exact v2 P) (hd : g.Exact d Q)
    (hr : (pressCorrect (pressQuot adcP f g) c).Exact r ((P ∧ Q) ∧ R)) :
    (pressFrom adcP f g c).ovf = false ↔ (P ∧ Q) ∧ (d ≠ 0 → 0 ≤ r ∧ r < 2 ^ 32 ∧ R) := by
  by_cases h0 : g.val = 0
  · rw [pressFrom_of_zero h0, hv.both hd]
    exact ⟨fun h => ⟨h, fun hne => absurd (hd.val h.2 ▸ h0) hne⟩, And.left⟩
  · rw [pressFrom_of_ne h0, pressFinish_ovf, hr.ovf]
    constructor
    · rintro ⟨⟨hPQ, hR⟩, hrange⟩
      rw [hr.val ⟨hPQ, hR⟩] at hrange
      exact ⟨hPQ, fun _ => ⟨hrange.1, hrange.2, hR⟩⟩
    · rintro ⟨hPQ, hrest⟩
      obtain ⟨hlow, hhigh, hR⟩ := hrest (hd.val hPQ.2 ▸ h0)
      rw [hr.val ⟨hPQ, hR⟩]
      exact ⟨⟨hPQ, hR⟩, hlow, hhigh⟩

/-- The result without a report: the guard's where `d` is 0, else `r` itself (R187 to R190). -/
theorem pressFrom_of_no_report (adcP : BitVec 20) {v2 d r : Int} {R : Prop} (hv : f.Exact v2 P) (hd : g.Exact d Q)
    (hr : (pressCorrect (pressQuot adcP f g) c).Exact r ((P ∧ Q) ∧ R)) (hovf : (pressFrom adcP f g c).ovf = false) :
    (d = 0 → pressFrom adcP f g c = ⟨0, true, false⟩) ∧
    (d ≠ 0 → (pressFrom adcP f g c).guard = false ∧ ((pressFrom adcP f g c).p.toNat : Int) = r) := by
  obtain ⟨hPQ, hrest⟩ := (pressFrom_ovf c adcP hv hd hr).mp hovf
  have hgd : g.val = d := hd.val hPQ.2
  constructor
  · intro h0
    rw [pressFrom_of_zero (hgd.trans h0), (hv.both hd).mpr hPQ]
  · intro h0
    obtain ⟨hlow, hhigh, hR⟩ := hrest h0
    rw [pressFrom_of_ne (hgd ▸ h0)]
    refine ⟨rfl, ?_⟩
    rw [pressFinish, hr.val ⟨hPQ, hR⟩, BitVec.toNat_ofInt]
    omega

end

/-- Settles O51: `v2` and `d`, then the quotient and its correction, first as patterns, then as exact numbers. -/
theorem pressureIsExactWithoutOverflow : Obligations.PressureIsExactWithoutOverflow := by
  intro adcP tFine c
  constructor
  · intro v1 v2 d q r hv1 hv2 hd hq hr
    have hbase : (pressBase tFine).Holds v1 := hv1 ▸ pressBase_holds tFine
    have hoffset : (pressOffset (pressBase tFine) c).Holds v2 := hv2 ▸ pressOffset_holds c hbase
    have hdenom : (pressDenom (pressBase tFine) c).Holds d := hd ▸ pressDenom_holds c hbase
    have hquot := pressQuot_holds adcP hoffset hdenom
    rw [← hq] at hquot
    have hcorrect := pressCorrect_holds c hquot
    rw [← hr] at hcorrect
    rw [compP]
    constructor
    · intro h0
      rw [pressFrom_of_zero (hdenom.val_eq_zero_iff.mpr h0)]
      exact ⟨rfl, rfl⟩
    · intro h0
      rw [pressFrom_of_ne (fun h => h0 (hdenom.val_eq_zero_iff.mp h))]
      refine ⟨pressFinish_p hcorrect, rfl, fun hrange => ?_⟩
      rw [← Bool.not_eq_false, pressFinish_ovf, hcorrect.val_eq]
      omega
  · intro v1 v2 e d p q g c1 c2 r hv1 hv2 he hd hp hq hg hc1 hc2 hr
    have hbase := pressBase_exact tFine
    rw [← hv1] at hbase
    have hoffset := pressOffset_exact c hbase
    rw [← hv2] at hoffset
    have hdenom := pressDenom_exact c hbase he
    rw [← hd] at hdenom
    have hquot := pressQuot_exact adcP hoffset hdenom hp
    rw [← hq] at hquot
    have hcorrect := pressCorrect_exact c hquot hg hc1 hc2
    rw [← hr, and_assoc] at hcorrect
    rw [compP]
    refine ⟨(pressFrom_ovf c adcP hoffset hdenom hcorrect).trans ?_,
      pressFrom_of_no_report c adcP hoffset hdenom hcorrect⟩
    simp only [List.forall_mem_cons]
    tauto

/-- Settles O54: the two arms of `pressFrom`, and a product with `P1 = 0` is 0 (R187). -/
theorem pressureGuardIsTakenOnZeroDenominator : Obligations.PressureGuardIsTakenOnZeroDenominator := by
  intro adcP tFine c
  have hzero (h : (pressDenom (pressBase tFine) c).val = 0) :
      (compP adcP tFine c).guard = true ∧ (compP adcP tFine c).p = 0 := by
    rw [compP, pressFrom_of_zero h]
    exact ⟨rfl, rfl⟩
  have hguard : (compP adcP tFine c).guard = true ↔ (pressDenom (pressBase tFine) c).val = 0 := by
    refine ⟨fun h => ?_, fun h => (hzero h).1⟩
    by_contra hne
    rw [compP, pressFrom_of_ne hne] at h
    exact nomatch h
  refine ⟨hguard, fun h => (hzero (hguard.mp h)).2, fun h => hguard.mpr ?_⟩
  rw [(pressDenom_holds c (pressBase_holds tFine)).val_eq_zero_iff, h]
  simp

/-! ## Humidity (R192 to R198) -/

section
variable {f : Fixed 32} (adcH : BitVec 16) (c : CalFile)

theorem humBase_holds (tFine : Word) : (humBase tFine).Holds (tFine - 76800#32) :=
  (BitVec.signExtend_eq tFine ▸ Fixed.holds_signed (by decide) tFine).sub
    (Fixed.holds_ofInt (by decide) 76800 ⟨by decide, by decide⟩)

theorem humRaw_holds {v : BitVec 32} (hv : f.Holds v) :
    (humRaw adcH f c).Holds
      (((adcH.setWidth 32 <<< 14) - (c.h4.signExtend 32 <<< 20) - c.h5.signExtend 32 * v + 16384#32).sshiftRight 15) :=
  (((((Fixed.holds_unsigned (by decide) adcH).shl 14).sub ((Fixed.holds_signed (by decide) c.h4).shl 20)).sub
    ((Fixed.holds_signed (by decide) c.h5).mul hv)).add
    (Fixed.holds_ofInt (by decide) 16384 ⟨by decide, by decide⟩)).shr 15

theorem humCoeff_holds {v y1 y2 : BitVec 32} (hv : f.Holds v) (h1 : y1 = (v * c.h6.signExtend 32).sshiftRight 10)
    (h2 : y2 = (v * c.h3.setWidth 32).sshiftRight 11 + 32768#32) :
    (humCoeff f c).Holds
      ((((y1 * y2).sshiftRight 10 + 2097152#32) * c.h2.signExtend 32 + 8192#32).sshiftRight 14) := by
  rw [h1, h2]
  exact (((((((hv.mul (Fixed.holds_signed (by decide) c.h6)).shr 10).mul
    (((hv.mul (Fixed.holds_unsigned (by decide) c.h3)).shr 11).add
      (Fixed.holds_ofInt (by decide) 32768 ⟨by decide, by decide⟩))).shr 10).add
    (Fixed.holds_ofInt (by decide) 2097152 ⟨by decide, by decide⟩)).mul
    (Fixed.holds_signed (by decide) c.h2)).add (Fixed.holds_ofInt (by decide) 8192 ⟨by decide, by decide⟩)).shr 14

theorem humCorrect_holds {u : BitVec 32} (hu : f.Holds u) :
    (humCorrect f c).Holds
      (u - ((u.sshiftRight 15 * u.sshiftRight 15).sshiftRight 7 * c.h1.setWidth 32).sshiftRight 4) :=
  hu.sub (((((hu.shr 15).mul (hu.shr 15)).shr 7).mul (Fixed.holds_unsigned (by decide) c.h1)).shr 4)

variable {P : Prop}

theorem humBase_exact (tFine : Word) :
    (humBase tFine).Exact (tFine.toInt - 76800) (signedFits 32 (tFine.toInt - 76800)) :=
  ((Fixed.exact_signed tFine).sub (by decide) (Fixed.exact_ofInt 76800)).of_iff (by simp)

theorem humRaw_exact {v : Int} (hv : f.Exact v P) :
    (humRaw adcH f c).Exact
      (((adcH.toNat : Int) * 2 ^ 14 - c.h4.toInt * 2 ^ 20 - c.h5.toInt * v + 16384) / 2 ^ 15)
      (P ∧ ∀ z ∈ ([(adcH.toNat : Int) * 2 ^ 14, c.h4.toInt * 2 ^ 20, (adcH.toNat : Int) * 2 ^ 14 - c.h4.toInt * 2 ^ 20,
        c.h5.toInt * v, (adcH.toNat : Int) * 2 ^ 14 - c.h4.toInt * 2 ^ 20 - c.h5.toInt * v,
        (adcH.toNat : Int) * 2 ^ 14 - c.h4.toInt * 2 ^ 20 - c.h5.toInt * v + 16384] : List Int), signedFits 32 z) := by
  have h := (((((Fixed.exact_unsigned adcH).shl (by decide) 14).sub (by decide)
    ((Fixed.exact_signed c.h4).shl (by decide) 20)).sub (by decide)
    ((Fixed.exact_signed c.h5).mul (by decide) hv)).add (by decide) (Fixed.exact_ofInt 16384)).shr 15
  exact h.of_iff (by simp only [List.forall_mem_cons]; tauto)

theorem humCoeff_exact {v y1 y2 : Int} (hv : f.Exact v P) (h1 : y1 = v * c.h6.toInt / 2 ^ 10)
    (h2 : y2 = v * c.h3.toNat / 2 ^ 11 + 32768) :
    (humCoeff f c).Exact (((y1 * y2 / 2 ^ 10 + 2097152) * c.h2.toInt + 8192) / 2 ^ 14)
      (P ∧ ∀ z ∈ ([v * c.h6.toInt, v * c.h3.toNat, y2, y1 * y2, y1 * y2 / 2 ^ 10 + 2097152,
        (y1 * y2 / 2 ^ 10 + 2097152) * c.h2.toInt, (y1 * y2 / 2 ^ 10 + 2097152) * c.h2.toInt + 8192] : List Int),
        signedFits 32 z) := by
  have h := (((((((hv.mul (by decide) (Fixed.exact_signed c.h6)).shr 10).mul (by decide)
    (((hv.mul (by decide) (Fixed.exact_unsigned c.h3)).shr 11).add (by decide) (Fixed.exact_ofInt 32768))).shr 10).add
    (by decide) (Fixed.exact_ofInt 2097152)).mul (by decide) (Fixed.exact_signed c.h2)).add (by decide)
    (Fixed.exact_ofInt 8192)).shr 14
  rw [← h1, ← h2] at h
  exact h.of_iff (by simp only [List.forall_mem_cons]; tauto)

theorem humCorrect_exact {u s : Int} (hu : f.Exact u P) (hs : s = u / 2 ^ 15 * (u / 2 ^ 15) / 2 ^ 7) :
    (humCorrect f c).Exact (u - s * c.h1.toNat / 2 ^ 4)
      (P ∧ ∀ z ∈ ([u / 2 ^ 15 * (u / 2 ^ 15), s * c.h1.toNat, u - s * c.h1.toNat / 2 ^ 4] : List Int),
        signedFits 32 z) := by
  have h := hu.sub (by decide) (((((hu.shr 15).mul (by decide) (hu.shr 15)).shr 7).mul (by decide)
    (Fixed.exact_unsigned c.h1)).shr 4)
  rw [← hs] at h
  exact h.of_iff (by simp only [List.forall_mem_cons]; tauto)

/-- The stored pattern is the clamped value shifted, for the clamp's range fits in a word (R197, R198). -/
theorem compH_toNat (tFine : Word) :
    ((compH adcH tFine c).h.toNat : Int) = max 0 (min (humUnclamped adcH tFine c).val 419430400) / 2 ^ 12 := by
  have hrange := humClamp_range (humUnclamped adcH tFine c).val
  rw [compH_h, BitVec.toNat_ofInt, ← humClamp_eq]
  omega

end

/-- Settles O52: `x` and `y`, their product and its correction, first as patterns, then as exact numbers. -/
theorem humidityIsExactWithoutOverflow : Obligations.HumidityIsExactWithoutOverflow := by
  intro adcH tFine c
  rw [compH_ovf, compH_toNat]
  constructor
  · intro v x y1 y2 y u w hv hx h1 h2 hy hu hw
    have hbase : (humBase tFine).Holds v := hv ▸ humBase_holds tFine
    have hraw : (humRaw adcH (humBase tFine) c).Holds x := hx ▸ humRaw_holds adcH c hbase
    have hcoeff : (humCoeff (humBase tFine) c).Holds y := hy ▸ humCoeff_holds c hbase h1 h2
    have hprod := hraw.mul hcoeff
    rw [← hu] at hprod
    have hcorrect : (humUnclamped adcH tFine c).Holds w := hw ▸ humCorrect_holds c hprod
    rw [hcorrect.val_eq]
  · intro v x y1 y2 y u s w hv hx h1 h2 hy hu hs hw
    have hbase := humBase_exact tFine
    rw [← hv] at hbase
    have hraw := humRaw_exact adcH c hbase
    rw [← hx] at hraw
    have hcoeff := humCoeff_exact c hbase h1 h2
    rw [← hy] at hcoeff
    have hprod := hraw.mul (by decide) hcoeff
    rw [← hu] at hprod
    have hcorrect := humCorrect_exact c hprod hs
    rw [← hw] at hcorrect
    refine ⟨hcorrect.ovf.trans ?_, fun hovf => ?_⟩
    · simp only [List.forall_mem_cons]
      tauto
    · rw [show (humUnclamped adcH tFine c).val = w from hcorrect.val (hcorrect.ovf.mp hovf)]

/-- Settles O53: the clamp's range, shifted. -/
theorem humidityIsAtMostAHundredPercent : Obligations.HumidityIsAtMostAHundredPercent :=
  fun adcH tFine c => ⟨compH_toNat adcH c tFine, compH_range adcH tFine c⟩

/-! ## The commands (R204 to R206) -/

/-- Where the session is not open, or a flag its data precondition needs is missing, a command is refused. -/
theorem exec_of_missing {i : Instr} {s : State} (ha : sessionAllows i s.sess = decide (s.sess = .opened))
    (h : s.sess ≠ .opened ∨ dataPrecondition i s = false) :
    exec i s = .next (fail .orderViolation 0xFFFF#16 s) :=
  exec_of_refused (h.imp_left fun hs => by rw [ha, decide_eq_false hs])

section
variable {s : State}

theorem exec_cmpt_of_opened (hs : s.sess = .opened) (hc : s.calValid = true) (hr : s.rawValid = true) :
    exec .cmpt s = .next (storeTemp (compT s.adcT s.cal.t1 s.cal.t2 s.cal.t3) s) :=
  exec_of_opened hs nofun (by rw [dataPrecondition, hc, hr]; rfl)

theorem exec_cmpp_of_opened (hs : s.sess = .opened) (hc : s.calValid = true) (hr : s.rawValid = true)
    (ht : s.tfValid = true) : exec .cmpp s = .next (storePress (compP s.adcP s.tFine s.cal) s) :=
  exec_of_opened hs nofun (by rw [dataPrecondition, hc, hr, ht]; rfl)

theorem exec_cmph_of_opened (hs : s.sess = .opened) (hc : s.calValid = true) (hr : s.rawValid = true)
    (ht : s.tfValid = true) : exec .cmph s = .next (storeHum (compH s.adcH s.tFine s.cal) s) :=
  exec_of_opened hs nofun (by rw [dataPrecondition, hc, hr, ht]; rfl)

/-- Nothing that `comp_T` reads is written by what stores its results, and the sticky flag is raised only once. -/
theorem storeTemp_storeTemp (r : TempResult) (s : State) : storeTemp r (storeTemp r s) = storeTemp r s := by
  simp only [storeTemp, raiseOvf, Bool.or_assoc, Bool.or_self]

/-- The results of `comp_P` and of `comp_H` go to different registers, and both only raise `OVF`. -/
theorem storeHum_storePress (p : PressResult) (h : HumResult) (s : State) :
    storeHum h (storePress p s) = storePress p (storeHum h s) := by
  simp only [storeHum, storePress, raiseOvf, Bool.or_assoc, Bool.or_comm p.ovf]

/-- The error procedure never leaves a session open. -/
theorem fail_sess_ne_opened (e : ErrCode) (n : BitVec 16) (s : State) : (fail e n s).sess ≠ .opened := by
  rw [fail_eq]
  by_cases hs : s.sess = .opened
  · exact ne_of_eq_of_ne (if_pos hs) nofun
  · exact ne_of_eq_of_ne (if_neg hs) hs

theorem fail_err_ne_clear {e : ErrCode} (he : e ≠ .clear) (n : BitVec 16) (s : State) : (fail e n s).err ≠ .clear := by
  rw [fail_eq]
  by_cases hs : s.err = .clear
  · exact ne_of_eq_of_ne (if_pos hs) he
  · exact ne_of_eq_of_ne (if_neg hs) hs

/-- A further error after the session has ended changes nothing (60_exceptions.md R222). -/
theorem fail_of_ended (he : s.err ≠ .clear) (hs : s.sess ≠ .opened) (e : ErrCode) (n : BitVec 16) : fail e n s = s := by
  rw [fail_eq, if_neg he, if_neg he, if_neg he, if_neg hs]

end

/-- Settles O47: the store, or the refusal of a missing condition. -/
theorem cmptStoresCarryAndTemperature : Obligations.CmptStoresCarryAndTemperature := by
  refine ⟨rfl, fun s => ⟨exec_cmpt_of_opened, fun h => exec_of_missing rfl (h.imp_right fun h => ?_)⟩⟩
  rwa [dataPrecondition, Bool.and_eq_false_iff]

/-- Settles O48: the store, or the refusal of a missing condition. -/
theorem cmppStoresPressure : Obligations.CmppStoresPressure := by
  refine ⟨rfl, fun s => ⟨exec_cmpp_of_opened, fun h => exec_of_missing rfl (h.imp_right fun h => ?_)⟩⟩
  rwa [dataPrecondition, Bool.and_eq_false_iff, Bool.and_eq_false_iff, or_assoc]

/-- Settles O49: the store, or the refusal of a missing condition. -/
theorem cmphStoresHumidity : Obligations.CmphStoresHumidity := by
  refine ⟨rfl, fun s => ⟨exec_cmph_of_opened, fun h => exec_of_missing rfl (h.imp_right fun h => ?_)⟩⟩
  rwa [dataPrecondition, Bool.and_eq_false_iff, Bool.and_eq_false_iff, or_assoc]

/-- Settles O55: a refused `CMPT` leaves no open session, so the second is refused as well; an accepted one stores the
same results again. -/
theorem repeatedTemperatureChangesNothing : Obligations.RepeatedTemperatureChangesNothing := by
  intro s t h
  obtain ⟨-, he⟩ | ⟨ha, hd, -⟩ := exec_cases .cmpt s
  · obtain rfl := Host.Outcome.next.inj (he.symm.trans h)
    have hended := fail_sess_ne_opened .orderViolation refusedStep s
    have herr : (fail .orderViolation refusedStep s).err ≠ .clear := fail_err_ne_clear (e := .orderViolation) nofun _ s
    rw [exec_of_missing rfl (.inl hended), fail_of_ended herr hended]
  · have hs : s.sess = .opened := of_decide_eq_true ha
    obtain ⟨hc, hr⟩ := (Bool.and_eq_true _ _).mp hd
    obtain rfl := Host.Outcome.next.inj ((exec_cmpt_of_opened hs hc hr).symm.trans h)
    exact (exec_cmpt_of_opened (s := storeTemp _ s) hs hc hr).trans
      (congrArg Host.Outcome.next (storeTemp_storeTemp _ s))

/-- Settles O56: neither command writes what the other reads, so each stores the same results in either order. -/
theorem pressureAndHumidityCommute : Obligations.PressureAndHumidityCommute := by
  intro s hs hc hr ht
  exact ⟨_, _, _, exec_cmpp_of_opened hs hc hr ht, exec_cmph_of_opened (s := storePress _ s) hs hc hr ht,
    exec_cmph_of_opened hs hc hr ht, (exec_cmpp_of_opened (s := storeHum _ s) hs hc hr ht).trans
      (congrArg Host.Outcome.next (storeHum_storePress _ _ s).symm)⟩

end Sys2Proof.Machine
end

section
/-! SUPPORT. The read-out (44_compensation.md R207 to R211): the computed significand is the integer nearest to the
exact quotient in units of the last place, and every binary64 number is on that grid or too small to be nearer. -/

namespace Sys2Proof.Machine

/-! ## The nearest integer -/

section
variable {m : Int} {y : ℚ}

/-- Within a half of `y`, the integer `m` is as near to `y` as any other; another one is as near only if `m` is a half
away. -/
theorem nearest_of_half (h : |m - y| ≤ 1 / 2) (k : Int) :
    |m - y| ≤ |k - y| ∧ (|m - y| = |k - y| → k ≠ m → |m - y| = 1 / 2) := by
  by_cases hk : k = m
  · exact ⟨by rw [hk], fun _ hne => absurd hk hne⟩
  · have hone : (1 : ℚ) ≤ |(k : ℚ) - m| := by exact_mod_cast Int.one_le_abs (sub_ne_zero.mpr hk)
    have htri : |(k : ℚ) - m| ≤ |k - y| + |m - y| := abs_sub_comm (m : ℚ) y ▸ abs_sub_le _ _ _
    exact ⟨by linarith, fun heq _ => by linarith⟩

/-- A number smaller in size than an integer `c` which `y` is not is further from `y` than the integer `m` nearest
to `y`. -/
theorem nearest_of_small (h : |m - y| ≤ 1 / 2) {c : Nat} (hy : (c : ℚ) ≤ |y|) {w : ℚ} (hw : |w| < c) :
    |m - y| < |w - y| := by
  have hfar : |y| - c < |w - y| := by
    have := abs_sub_abs_le_abs_sub y w
    rw [abs_sub_comm w y]
    linarith
  refine lt_of_le_of_lt ?_ hfar
  obtain ⟨hpos, -⟩ | ⟨hneg, -⟩ := abs_cases y
  · refine (nearest_of_half h c).1.trans_eq ?_
    rw [Int.cast_natCast, abs_sub_comm, abs_of_nonneg (by linarith), hpos]
  · refine (nearest_of_half h (-c)).1.trans_eq ?_
    rw [Int.cast_neg, Int.cast_natCast, abs_of_nonneg (by linarith), hneg]
    ring

end

section
variable {r u : Nat}

theorem div_le_half_iff (hu : 0 < u) : (r : ℚ) / u ≤ 1 / 2 ↔ 2 * r ≤ u := by
  rw [div_le_div_iff₀ (by exact_mod_cast hu) (by norm_num), one_mul, mul_comm]
  exact_mod_cast Iff.rfl

theorem half_le_div_iff (hu : 0 < u) : 1 / 2 ≤ (r : ℚ) / u ↔ u ≤ 2 * r := by
  rw [div_le_div_iff₀ (by norm_num) (by exact_mod_cast hu), one_mul, mul_comm]
  exact_mod_cast Iff.rfl

/-- Rounding `f + r / u` up above a half, down below, and to even at a half gives an integer within a half, and an even
one at a half. -/
theorem roundHalfEven_near {f m : Nat} (hr : r < u) (hup : u < 2 * r ∨ (2 * r = u ∧ f % 2 = 1) → m = f + 1)
    (hdown : ¬(u < 2 * r ∨ (2 * r = u ∧ f % 2 = 1)) → m = f) :
    |((m : Int) : ℚ) - (f + (r : ℚ) / u)| ≤ 1 / 2 ∧ (|((m : Int) : ℚ) - (f + (r : ℚ) / u)| = 1 / 2 → m % 2 = 0) := by
  have hu : 0 < u := by omega
  have hle := div_le_half_iff (r := r) hu
  have hge := half_le_div_iff (r := r) hu
  by_cases h : u < 2 * r ∨ (2 * r = u ∧ f % 2 = 1)
  · have hlt : (r : ℚ) / u < 1 := (div_lt_one (by exact_mod_cast hu)).mpr (by exact_mod_cast hr)
    rw [hup h, Int.cast_natCast, Nat.cast_add_one, add_sub_add_left_eq_sub, abs_of_pos (sub_pos.mpr hlt)]
    refine ⟨by linarith [hge.mpr (by omega)], fun heq => ?_⟩
    have := hle.mp (by linarith)
    omega
  · rw [hdown h, Int.cast_natCast, sub_add_cancel_left, abs_neg, abs_of_nonneg (by positivity)]
    refine ⟨hle.mpr (by omega), fun heq => ?_⟩
    have := hge.mp heq.ge
    omega

end

theorem abs_mul_sub_mul {u : ℚ} (hu : 0 < u) (a c : ℚ) : |a * u - c * u| = |a - c| * u := by
  rw [← sub_mul, abs_mul, abs_of_pos hu]

/-! ## Binary64 patterns (00_scope.md R14) -/

theorem f64Significand_lt (b : BitVec 64) : f64Significand b < 2 ^ 53 := by
  have := (b.extractLsb' 0 52).isLt
  unfold f64Significand
  omega

theorem le_f64Significand (b : BitVec 64) : 2 ^ 52 ≤ f64Significand b := Nat.le_add_right _ _

/-- A larger exponent outweighs any significand. -/
theorem significand_mul_lt {m n : Nat} {e l : ℤ} (hm : m < 2 ^ 53) (hn : 2 ^ 52 ≤ n) (he : e < l) :
    (m : ℚ) * 2 ^ e < n * 2 ^ l := by
  have hm' : (m : ℚ) < 2 ^ 53 := by exact_mod_cast hm
  have hn' : (2 : ℚ) ^ 52 ≤ n := by exact_mod_cast hn
  have hstep : (2 : ℚ) ^ (e + 1) ≤ 2 ^ l := zpow_le_zpow_right₀ (by norm_num) (by omega)
  calc (m : ℚ) * 2 ^ e < 2 ^ 53 * 2 ^ e := by gcongr
    _ = 2 ^ 52 * 2 ^ (e + 1) := by rw [zpow_add_one₀ (by norm_num)]; ring
    _ ≤ n * 2 ^ l := by gcongr

theorem abs_f64Value (b : BitVec 64) : |f64Value b| = f64Significand b * 2 ^ ((f64Exponent b : ℤ) - 1075) := by
  have hpos : (0 : ℚ) ≤ f64Significand b * 2 ^ ((f64Exponent b : ℤ) - 1075) := by positivity
  unfold f64Value
  split
  · rw [mul_assoc, abs_mul, abs_of_nonneg hpos, abs_neg, abs_one, one_mul]
  · rw [one_mul, abs_of_nonneg hpos]

/-- In units of `2 ^ l` a pattern's value is an integer, or smaller in size than `2 ^ 52`. -/
theorem f64Value_grid (b : BitVec 64) (l : ℤ) :
    ∃ w : ℚ, f64Value b = w * 2 ^ l ∧ ((∃ k : ℤ, w = k) ∨ |w| < (2 ^ 52 : Nat)) := by
  have hunit : (0 : ℚ) < 2 ^ l := by positivity
  refine ⟨f64Value b / 2 ^ l, (div_mul_cancel₀ _ hunit.ne').symm, ?_⟩
  obtain he | he := lt_or_ge ((f64Exponent b : ℤ) - 1075) l
  · right
    rw [abs_div, abs_of_pos hunit, div_lt_iff₀ hunit, abs_f64Value]
    exact significand_mul_lt (f64Significand_lt b) (le_refl _) he
  · left
    obtain ⟨j, hj⟩ := Int.eq_ofNat_of_zero_le (sub_nonneg.mpr he)
    refine ⟨(if b.getLsbD 63 then -1 else 1) * f64Significand b * 2 ^ j, ?_⟩
    rw [div_eq_iff hunit.ne', f64Value, show (f64Exponent b : ℤ) - 1075 = j + l by omega, zpow_add₀ (by norm_num),
      zpow_natCast]
    push_cast
    ring

/-- A pattern is its sign, its exponent field and its fraction. -/
theorem f64_ext {b b' : BitVec 64} (hs : b.getLsbD 63 = b'.getLsbD 63) (he : f64Exponent b = f64Exponent b')
    (hf : f64Significand b = f64Significand b') : b = b' := by
  have hexp : b.extractLsb' 52 11 = b'.extractLsb' 52 11 := BitVec.eq_of_toNat_eq he
  have hfrac : b.extractLsb' 0 52 = b'.extractLsb' 0 52 := BitVec.eq_of_toNat_eq (Nat.add_left_cancel hf)
  refine BitVec.eq_of_getLsbD_eq fun i hi => ?_
  obtain h | h | h : i < 52 ∨ (52 ≤ i ∧ i < 63) ∨ i = 63 := by omega
  · simpa [BitVec.getLsbD_extractLsb', h] using congrArg (·.getLsbD i) hfrac
  · have := congrArg (·.getLsbD (i - 52)) hexp
    simpa [BitVec.getLsbD_extractLsb', show i - 52 < 11 by omega, show 52 + (i - 52) = i by omega] using this
  · rw [h, hs]

theorem sign_injective {x y : Bool} (h : (if x then (-1 : ℚ) else 1) = if y then -1 else 1) : x = y := by
  revert h
  cases x <;> cases y <;> norm_num

/-- The value determines the pattern: its size the exponent and the significand, and then its sign the sign. -/
theorem f64Value_injective : Function.Injective f64Value := by
  intro b b' h
  have habs := congrArg abs h
  rw [abs_f64Value, abs_f64Value] at habs
  have hexp : f64Exponent b = f64Exponent b' := by
    obtain hlt | heq | hlt := lt_trichotomy (f64Exponent b) (f64Exponent b')
    · exact absurd habs (significand_mul_lt (f64Significand_lt b) (le_f64Significand b') (by omega)).ne
    · exact heq
    · exact absurd habs (significand_mul_lt (f64Significand_lt b') (le_f64Significand b) (by omega)).ne'
  have hunit : (2 : ℚ) ^ ((f64Exponent b' : ℤ) - 1075) ≠ 0 := by positivity
  have hsig : f64Significand b = f64Significand b' := by
    rw [hexp] at habs
    exact_mod_cast mul_right_cancel₀ hunit habs
  refine f64_ext ?_ hexp hsig
  have hne : (f64Significand b' : ℚ) ≠ 0 := by
    have := le_f64Significand b'
    exact_mod_cast (by omega : f64Significand b' ≠ 0)
  rw [f64Value, f64Value, hexp, hsig] at h
  exact sign_injective (mul_right_cancel₀ hne (mul_right_cancel₀ hunit h))

/-! ## The computed division (R207) -/

section
variable {n d : Nat}

/-- The scaled quotient has more bits than a significand, and few enough for the exponent. -/
theorem divLead_range (hn : 0 < n) (hn' : n < 2 ^ 32) (hd : 0 < d) (hd' : d < 2 ^ 15) :
    52 ≤ divLead n d ∧ divLead n d < 112 ∧
      2 ^ divLead n d * d ≤ divNum n ∧ divNum n < 2 ^ (divLead n d + 1) * d := by
  have hlow : 2 ^ 52 ≤ divNum n / d := by
    rw [Nat.le_div_iff_mul_le hd, divNum, divScale]
    omega
  have hne : divNum n / d ≠ 0 := by omega
  have hhigh : divNum n / d < 2 ^ 112 := by
    refine lt_of_le_of_lt (Nat.div_le_self _ _) ?_
    rw [divNum, divScale]
    omega
  exact ⟨(Nat.le_log2 hne).mpr hlow, (Nat.log2_lt hne).mpr hhigh,
    (Nat.le_div_iff_mul_le hd).mp (Nat.log2_self_le hne), (Nat.div_lt_iff_lt_mul hd).mp Nat.lt_log2_self⟩

variable (hn : 0 < n) (hn' : n < 2 ^ 32) (hd : 0 < d) (hd' : d < 2 ^ 15)
include hd

theorem divUnit_pos : 0 < divUnit n d := Nat.mul_pos hd (by positivity)

/-- The rounded significand is within a half of the exact one, and even at a half. -/
theorem divSig_near : |((divSig n d : Int) : ℚ) - divNum n / divUnit n d| ≤ 1 / 2 ∧
    (|((divSig n d : Int) : ℚ) - divNum n / divUnit n d| = 1 / 2 → divSig n d % 2 = 0) := by
  have hpos : (divUnit n d : ℚ) ≠ 0 := by exact_mod_cast (divUnit_pos hd).ne'
  have hquot : (divNum n : ℚ) / divUnit n d =
      (divNum n / divUnit n d : Nat) + ((divNum n % divUnit n d : Nat) : ℚ) / divUnit n d := by
    rw [div_eq_iff hpos, add_mul, div_mul_cancel₀ _ hpos]
    exact_mod_cast (Nat.div_add_mod' _ _).symm
  rw [hquot]
  exact roundHalfEven_near (Nat.mod_lt _ (divUnit_pos hd)) (fun h => if_pos h) fun h => if_neg h

include hn hn' hd'

theorem divUnit_range : 2 ^ 52 * divUnit n d ≤ divNum n ∧ divNum n < 2 ^ 53 * divUnit n d := by
  obtain ⟨hlead, -, hlow, hhigh⟩ := divLead_range hn hn' hd hd'
  have hsplit : 2 ^ divLead n d * d = 2 ^ 52 * divUnit n d := by
    rw [divUnit, ← Nat.add_sub_of_le hlead, pow_add, Nat.add_sub_cancel_left]
    ring
  have hdouble : 2 ^ (divLead n d + 1) * d = 2 * (2 ^ divLead n d * d) := by
    rw [pow_succ]
    ring
  omega

theorem divSig_range : 2 ^ 52 ≤ divSig n d ∧ divSig n d ≤ 2 ^ 53 := by
  obtain ⟨hlow, hhigh⟩ := divUnit_range hn hn' hd hd'
  have hpos := divUnit_pos (n := n) hd
  have hlow' := (Nat.le_div_iff_mul_le hpos).mpr hlow
  have hhigh' := (Nat.div_lt_iff_lt_mul hpos).mpr hhigh
  simp only [divSig]
  split
  · omega
  · omega

/-- The exponent and the fraction of the pattern: those of the significand, or of the next power of 2 when it was
rounded up to `2 ^ 53`. -/
theorem divBits_fields :
    (divSig n d < 2 ^ 53 ∧ divBits n d / 2 ^ 52 = divLead n d + 943 ∧ 2 ^ 52 + divBits n d % 2 ^ 52 = divSig n d) ∨
    (divSig n d = 2 ^ 53 ∧ divBits n d / 2 ^ 52 = divLead n d + 944 ∧ divBits n d % 2 ^ 52 = 0) := by
  obtain ⟨hlow, hhigh⟩ := divSig_range hn hn' hd hd'
  have hlead : divLead n d + 1023 - divScale = divLead n d + 943 := by rw [divScale]; omega
  unfold divBits
  rw [hlead]
  omega

end

/-! ## The value of the result -/

section
variable {z : Int} {d : Nat}

theorem f64Div_sign (hz : z ≠ 0) : (f64Div z d).getLsbD 63 = decide (z < 0) := by
  rw [f64Div, if_neg hz, BitVec.getLsbD_append]
  simp

theorem f64Div_exponent (hz : z ≠ 0) : f64Exponent (f64Div z d) = divBits z.natAbs d / 2 ^ 52 % 2 ^ 11 := by
  rw [f64Exponent, f64Div, if_neg hz, BitVec.extractLsb'_append_eq_of_add_le (by decide), BitVec.extractLsb'_toNat,
    BitVec.toNat_ofNat, Nat.shiftRight_eq_div_pow]
  omega

theorem f64Div_significand (hz : z ≠ 0) : f64Significand (f64Div z d) = 2 ^ 52 + divBits z.natAbs d % 2 ^ 52 := by
  rw [f64Significand, f64Div, if_neg hz, BitVec.extractLsb'_append_eq_of_add_le (by decide), BitVec.extractLsb'_toNat,
    BitVec.toNat_ofNat, Nat.shiftRight_zero]
  omega

theorem abs_sign_cast (hz : z ≠ 0) : |(z.sign : ℚ)| = 1 := by exact_mod_cast Int.abs_sign_of_ne_zero hz

/-- The signed significand is within a half of the exact quotient in units, and even at a half. -/
theorem signed_divSig_near (hz : z ≠ 0) (hd : 0 < d) :
    |((z.sign * divSig z.natAbs d : Int) : ℚ) - z.sign * (divNum z.natAbs / divUnit z.natAbs d)| ≤ 1 / 2 ∧
    (|((z.sign * divSig z.natAbs d : Int) : ℚ) - z.sign * (divNum z.natAbs / divUnit z.natAbs d)| = 1 / 2 →
      divSig z.natAbs d % 2 = 0) := by
  have h := divSig_near (n := z.natAbs) hd
  rwa [Int.cast_mul, ← mul_sub, abs_mul, abs_sign_cast hz, one_mul]

variable (hz : z ≠ 0) (hz' : z.natAbs < 2 ^ 32) (hd : 0 < d) (hd' : d < 2 ^ 15)
include hz hz' hd hd'

theorem f64Div_normal : f64Normal (f64Div z d) := by
  have hpos : 0 < z.natAbs := Int.natAbs_pos.mpr hz
  obtain ⟨-, hlead, -, -⟩ := divLead_range hpos hz' hd hd'
  rw [f64Normal, f64Div_exponent hz]
  obtain ⟨-, he, -⟩ | ⟨-, he, -⟩ := divBits_fields hpos hz' hd hd'
  · omega
  · omega

theorem f64Div_significand_even (h : divSig z.natAbs d % 2 = 0) : f64Significand (f64Div z d) % 2 = 0 := by
  rw [f64Div_significand hz]
  obtain ⟨-, -, hf⟩ | ⟨-, -, hf⟩ := divBits_fields (Int.natAbs_pos.mpr hz) hz' hd hd'
  · omega
  · omega

/-- The result in units of its last place. -/
theorem f64Value_f64Div :
    f64Value (f64Div z d) = (z.sign * divSig z.natAbs d : Int) * (2 : ℚ) ^ ((divLead z.natAbs d : ℤ) - 132) := by
  have hpos : 0 < z.natAbs := Int.natAbs_pos.mpr hz
  obtain ⟨-, hlead, -, -⟩ := divLead_range hpos hz' hd hd'
  have hmag : (f64Significand (f64Div z d) : ℚ) * 2 ^ ((f64Exponent (f64Div z d) : ℤ) - 1075) =
      divSig z.natAbs d * 2 ^ ((divLead z.natAbs d : ℤ) - 132) := by
    rw [f64Div_exponent hz, f64Div_significand hz]
    obtain ⟨-, he, hf⟩ | ⟨hs, he, hf⟩ := divBits_fields hpos hz' hd hd'
    · rw [hf, show ((divBits z.natAbs d / 2 ^ 52 % 2 ^ 11 : Nat) : ℤ) - 1075 = (divLead z.natAbs d : ℤ) - 132 by omega]
    · rw [hs, hf, show ((divBits z.natAbs d / 2 ^ 52 % 2 ^ 11 : Nat) : ℤ) - 1075 = (divLead z.natAbs d : ℤ) - 132 + 1
        by omega, zpow_add_one₀ (by norm_num)]
      push_cast
      ring
  have hsign : (if (f64Div z d).getLsbD 63 then (-1 : ℚ) else 1) = z.sign := by
    rw [f64Div_sign hz]
    obtain h | h := lt_or_gt_of_ne hz
    · simp [h, Int.sign_eq_neg_one_of_neg h]
    · simp [h.le, Int.sign_eq_one_of_pos h]
  rw [f64Value, hsign, mul_assoc, hmag]
  push_cast
  ring

/-- The exact quotient in units of the result's last place. -/
theorem quotient_eq_units :
    (z : ℚ) / d = z.sign * (divNum z.natAbs / divUnit z.natAbs d) * (2 : ℚ) ^ ((divLead z.natAbs d : ℤ) - 132) := by
  obtain ⟨hlead, -, -, -⟩ := divLead_range (Int.natAbs_pos.mpr hz) hz' hd hd'
  have hunit : (2 : ℚ) ^ ((divLead z.natAbs d : ℤ) - 132) = 2 ^ (divLead z.natAbs d - 52) / 2 ^ 80 := by
    rw [← zpow_natCast, ← zpow_natCast, Nat.cast_sub hlead, ← zpow_sub₀ (by norm_num)]
    congr 1
    push_cast
    ring
  have hz : (z : ℚ) = z.sign * z.natAbs := by
    rw [← Int.cast_natCast, ← Int.cast_mul, Int.sign_mul_natAbs]
  have hdpos : (d : ℚ) ≠ 0 := by exact_mod_cast hd.ne'
  rw [hz, hunit, divNum, divUnit, divScale]
  push_cast
  field_simp
  norm_num

theorem two_pow_le_abs_units :
    ((2 ^ 52 : Nat) : ℚ) ≤ |(z.sign : ℚ) * (divNum z.natAbs / divUnit z.natAbs d)| := by
  have hpos : (0 : ℚ) < divUnit z.natAbs d := by exact_mod_cast divUnit_pos hd
  obtain ⟨hlow, -⟩ := divUnit_range (Int.natAbs_pos.mpr hz) hz' hd hd'
  rw [abs_mul, abs_sign_cast hz, one_mul, abs_of_nonneg (by positivity), le_div_iff₀ hpos]
  exact_mod_cast hlow

end

/-- Settles O57: in units of the result's last place, a pattern on the grid is an integer, of which the result's is
nearest to the quotient, and any other pattern lies below the quotient's binade. -/
theorem readoutIsCorrectlyRounded : Obligations.ReadoutIsCorrectlyRounded := by
  refine ⟨fun w => ⟨rfl, rfl, rfl⟩, fun z d hz' hd => ⟨fun h => if_pos h, fun hz => ?_⟩⟩
  have hdpos : 0 < d := by omega
  have hdlt : d < 2 ^ 15 := by omega
  refine ⟨f64Div_normal hz hz' hdpos hdlt, fun b _ => ?_⟩
  have hvalue := f64Value_f64Div hz hz' hdpos hdlt
  obtain ⟨hnear, htie⟩ := signed_divSig_near hz hdpos
  have hlarge := two_pow_le_abs_units hz hz' hdpos hdlt
  have hunit : (0 : ℚ) < 2 ^ ((divLead z.natAbs d : ℤ) - 132) := by positivity
  rw [quotient_eq_units hz hz' hdpos hdlt]
  obtain ⟨w, hw, hgrid⟩ := f64Value_grid b ((divLead z.natAbs d : ℤ) - 132)
  rw [hvalue, hw, abs_mul_sub_mul hunit, abs_mul_sub_mul hunit]
  obtain ⟨k, rfl⟩ | hsmall := hgrid
  · obtain ⟨hle, hother⟩ := nearest_of_half hnear k
    refine ⟨mul_le_mul_of_nonneg_right hle hunit.le, fun heq hne => ?_⟩
    have hkne : k ≠ z.sign * divSig z.natAbs d := fun h => hne (f64Value_injective (by rw [hw, hvalue, h]))
    exact f64Div_significand_even hz hz' hdpos hdlt (htie (hother (mul_right_cancel₀ hunit.ne' heq) hkne))
  · have hlt := mul_lt_mul_of_pos_right (nearest_of_small hnear hlarge hsmall) hunit
    exact ⟨hlt.le, fun heq => absurd heq hlt.ne⟩

end Sys2Proof.Machine
end

section
/-! SUPPORT. Errors and the aborted session (60_exceptions.md): an illegal word is one `Fail`, and an aborted session
accepts `NOP` and `CLOSE` and no other command. -/

namespace Sys2Proof.Machine

/-! ## A step that runs no command (R230, 93_implementation_defined.md U15) -/

theorem step_of_idle {s : State} (hh : s.hung = false) (hq : s.hostq = []) : step s = .next s := by
  rw [step, if_neg (Bool.eq_false_iff.mp hh), hostStep, hq]

theorem step_of_hung {s : State} (hh : s.hung = true) : step s = .fault .transportNeverReturned := if_pos hh

/-! ## An illegal word (R218) -/

theorem execWord_of_decode_error {w : Word} {e : DecodeError} (h : decode w = .error e) (s : State) :
    execWord w s = .next (fail .illegalCommand refusedStep { s with lastCmd := w }) := by
  rw [execWord, h]

/-! ## The aborted session (R226) -/

theorem sessionAllows_aborted {i : Instr} (h : sessionAllows i .aborted = true) : i = .nop ∨ i = .closeSession := by
  cases i with
  | nop => exact .inl rfl
  | closeSession => exact .inr rfl
  | _ => exact absurd h (by simp [sessionAllows])

section
variable {s : State} (hs : s.sess = .aborted)
include hs

/-- An aborted session has its error recorded, so a further one changes nothing (60_exceptions.md R222). -/
theorem fail_of_aborted (he : s.err ≠ .clear) (e : ErrCode) (n : BitVec 16) : fail e n s = s :=
  fail_of_ended he (ne_of_eq_of_ne hs nofun) e n

/-- In an aborted session a refused command adds nothing to the recorded error, and of the others only `CLOSE` does
anything. -/
theorem exec_of_aborted (he : s.err ≠ .clear) (i : Instr) :
    exec i s = .next s ∨ (i = .closeSession ∧ exec i s = .next (endSession s)) := by
  obtain ⟨-, hx⟩ | ⟨ha, -, hx⟩ := exec_cases i s
  · rw [fail_of_aborted hs he] at hx
    exact .inl hx
  · rw [hs] at ha
    obtain rfl | rfl := sessionAllows_aborted ha
    · exact .inl hx
    · exact .inr ⟨rfl, hx⟩

/-- What a word does in an aborted session: its `LASTCMD` is all that changes, unless it was `CLOSE`. -/
theorem execWord_of_aborted (he : s.err ≠ .clear) (w : Word) :
    execWord w s = .next { s with lastCmd := w } ∨
      (w = 0x02000000#32 ∧ execWord w s = .next (endSession { s with lastCmd := w })) := by
  cases hd : decode w with
  | error e =>
    rw [execWord_of_decode_error hd, fail_of_aborted (s := { s with lastCmd := w }) hs he]
    exact .inl rfl
  | ok i =>
    rw [execWord_of_decode_ok hd]
    obtain hx | ⟨rfl, hx⟩ := exec_of_aborted (s := { s with lastCmd := w }) hs he i
    · exact .inl hx
    · exact .inr ⟨(encode_of_decode hd).symm, hx⟩

/-- Every host write but one to `CMD` is ignored in an aborted session (10_state.md R39). -/
theorem hostWrite_of_aborted (n : Nat) (v : Word) : hostWrite n v s = s := by
  obtain h | ⟨hc, -⟩ | ⟨ho, -⟩ | ⟨ho, -⟩ := hostWrite_cases n v s
  · exact h
  · exact nomatch hs.symm.trans hc
  · exact nomatch hs.symm.trans ho
  · exact nomatch hs.symm.trans ho

end

theorem hostRead_sess (n : Nat) (e : Option Word) (s : State) : (hostRead n e s).sess = s.sess := by
  obtain ⟨v, d, h, -⟩ := hostRead_eq n e s
  rw [h]

/-- The ways out of an aborted session that has its error recorded. -/
theorem hostAct_sess_of_aborted {a : HostAction} {s t : State} (hs : s.sess = .aborted) (he : s.err ≠ .clear)
    (h : hostAct a s = .next t) :
    a = .reset ∨ t.sess = .aborted ∨ (t.sess = .closed ∧ a = .write 0 0x02000000#32) := by
  cases a with
  | write n v =>
    rw [hostAct] at h
    split at h
    · next hn =>
      subst hn
      obtain hx | ⟨rfl, hx⟩ := execWord_of_aborted hs he v
      · obtain rfl := Host.Outcome.next.inj (hx.symm.trans h)
        exact .inr (.inl hs)
      · obtain rfl := Host.Outcome.next.inj (hx.symm.trans h)
        exact .inr (.inr ⟨rfl, rfl⟩)
    · obtain rfl := Host.Outcome.next.inj h
      rw [hostWrite_of_aborted hs]
      exact .inr (.inl hs)
  | follow w =>
    rw [hostAct, if_pos hs] at h
    obtain rfl := Host.Outcome.next.inj h
    exact .inr (.inl hs)
  | read n e =>
    obtain rfl := Host.Outcome.next.inj h
    exact .inr (.inl ((hostRead_sess n e s).trans hs))
  | reset => exact .inl rfl

/-! ## The obligations -/

/-- Settles O10: an aborted session is not closed, so its error is kept by what O11 says; the session's end is that of
the host's action. -/
theorem abortedSessionIsLeftOnlyByCloseOrReset : Obligations.AbortedSessionIsLeftOnlyByCloseOrReset := by
  intro s t hinv hs h
  have he := hinv.abortedErr hs
  obtain hkept | hreset | ⟨hc, -⟩ := recordedErrorIsKeptUntilOpenOrReset s t he h
  · obtain ⟨hh, -⟩ := step_cases h
    cases hq : s.hostq with
    | nil =>
      obtain rfl := Host.Outcome.next.inj ((step_of_idle hh hq).symm.trans h)
      exact .inr ⟨hkept, .inl hs⟩
    | cons a rest =>
      rw [step_of_action hh hq] at h
      obtain rfl | ha | ⟨hc, rfl⟩ := hostAct_sess_of_aborted (s := { s with hostq := rest }) hs he h
      · exact .inl ⟨rest, rfl⟩
      · exact .inr ⟨hkept, .inl ha⟩
      · exact .inr ⟨hkept, .inr ⟨hc, rest, rfl⟩⟩
  · exact .inl hreset
  · exact nomatch hs.symm.trans hc

/-- Settles O7: the word is recorded before `Fail`, which takes it from `LASTCMD`. -/
theorem illegalWordIsRecordedAndNothingElse : Obligations.IllegalWordIsRecordedAndNothingElse := by
  intro s w e h
  rw [execWord_of_decode_error h, fail_eq]
  rfl

/-- Settles O8: `Fail` leaves an error recorded and no session open, so a second one finds nothing to do. -/
theorem failRecordsTheFirstErrorAndAborts : Obligations.FailRecordsTheFirstErrorAndAborts := fun e n s =>
  ⟨fail_eq e n s, fun he => fail_of_ended (fail_err_ne_clear he n s) (fail_sess_ne_opened e n s)⟩

/-- Settles O12: the step looks first for a call that never returned, then for a pending action. -/
theorem idleStepKeepsAllAndStuckStepStops : Obligations.IdleStepKeepsAllAndStuckStepStops :=
  fun _ => ⟨step_of_idle, step_of_hung⟩

end Sys2Proof.Machine
end

section
/-! SUPPORT. Completion while the transport answers (70_reset_and_hazards.md R252): no stretch of pseudocode gets stuck,
and the fairness premise still holds where it ends. -/

namespace Sys2Proof.Machine

/-- The stretch is not stuck, and where it ends the transport still answers. -/
def Run.Answered {α : Type} (r : Run α) : Prop :=
  r.Post (fun _ t => t.transportAnswers) (fun _ _ t => t.transportAnswers) fun _ => False

/-- Sequencing: the second stretch starts while the transport answers. -/
theorem Run.Answered.bind {α β : Type} {r : Run α} {f : α → State → Run β} (hr : r.Answered)
    (hf : ∀ a t, t.transportAnswers → (f a t).Answered) : (r.bind f).Answered :=
  (Run.post_bind r f _ _ _).mpr (Run.Post.mono hr hf (fun _ _ _ h => h) fun _ h => h)

/-! ## Transport calls -/

/-- Transport calls that only take answers from the script leave the others to come. -/
theorem BusOnly.transportAnswers {s t : State} (hb : BusOnly s t) (hl : ScriptLeft s t) (h : s.transportAnswers) :
    t.transportAnswers := by
  obtain ⟨hh, hn⟩ := h
  refine ⟨?_, fun hm => hn (hl.subset hm)⟩
  rw [hb]
  exact hh

section
variable {s : State} (h : s.transportAnswers)
include h

/-- The next answer is not one that never comes. -/
theorem State.transportAnswers.head_ne_never : s.bus.script.head? ≠ some .never :=
  fun hn => h.2 (List.mem_of_mem_head? hn)

theorem BusOnly.transportAnswers_of_tail {t : State} (hb : BusOnly s t) (hs : t.bus.script = s.bus.script.tail) :
    t.transportAnswers :=
  hb.transportAnswers (ScriptLeft.tail List.suffix_rfl hs) h

theorem busOpen_answered : (busOpen s).Answered :=
  (busOpen_post s).mono (fun _ _ ⟨hb, _, hs, _⟩ => hb.transportAnswers_of_tail h hs) (fun _ _ _ hf => hf.elim)
    fun _ ⟨_, _, _, _, hn⟩ => h.head_ne_never hn

theorem addrSelect_answered : (addrSelect s).Answered :=
  (addrSelect_post s).mono (fun _ _ ⟨hb, _, hs, _⟩ => hb.transportAnswers_of_tail h hs) (fun _ _ _ hf => hf.elim)
    fun _ ⟨_, _, _, _, hn⟩ => h.head_ne_never hn

theorem devWrite1_answered (step : Nat) (a v : Byte) : (devWrite1 step a v s).Answered :=
  (devWrite1_post step a v s).mono (fun _ _ ⟨hb, _, _, hs⟩ => hb.transportAnswers_of_tail h hs)
    (fun _ _ _ ⟨_, _, hb, _, hs, _⟩ => hb.transportAnswers_of_tail h hs) fun _ ⟨_, _, _, hn⟩ => h.head_ne_never hn

theorem burstInto_answered (step : Nat) (a : Byte) (n k : Nat) : (burstInto step a n k s).Answered := by
  have hpost := (burstInto_post step a n k s).and (burstInto_scriptLeft step a n k (s := s) List.suffix_rfl)
  refine hpost.mono ?_ ?_ fun _ ⟨⟨hn, _⟩, _⟩ => h.2 hn
  · rintro bs t ⟨⟨-, r, u, -, ⟨hb, -⟩, rfl⟩, hl⟩
    exact hb.transportAnswers hl h
  · rintro e m t ⟨⟨-, u, rfl, ⟨-, c, -, hb, -⟩ | ⟨-, r, -, hb, -⟩⟩, hl⟩
    · exact hb.transportAnswers hl h
    · exact hb.transportAnswers hl h

/-! ## The pseudocode of the commands -/

theorem openBody_answered : (openBody s).Answered := by
  refine (busOpen_answered (s := startSession s) h).bind fun r0 t ht => ?_
  cases r0 with
  | false => exact ht
  | true =>
    refine (addrSelect_answered (s := { t with busHeld := true }) ht).bind fun r1 u hu => ?_
    cases r1 with
    | false => exact hu
    | true => exact hu

theorem endSession_transportAnswers : (endSession s).transportAnswers := by
  unfold endSession releaseBus
  split
  · exact h
  · exact h

/-- A burst and then an update that leaves the transport alone. -/
theorem burstThen_answered (step : Nat) (a : Byte) (n k : Nat) {f : List Byte → State → State}
    (hf : ∀ bs t, t.transportAnswers → (f bs t).transportAnswers) :
    ((burstInto step a n k s).bind fun bs t => .ok () (f bs t)).Answered :=
  (burstInto_answered h step a n k).bind hf

theorem ldcalBody_answered : (ldcalBody s).Answered :=
  (burstInto_answered h _ _ _ _).bind fun _ _ ht =>
    burstThen_answered ht _ _ _ _ (f := fun _ => loadCal) fun _ _ hu => hu

theorem cfgBody_answered : (cfgBody s).Answered :=
  (devWrite1_answered h _ _ _).bind fun _ _ ht =>
    (devWrite1_answered ht _ _ _).bind fun _ _ hu => devWrite1_answered hu _ _ _

theorem pollLoop_answered (fuel i : Nat) : (pollLoop fuel i s).Answered := by
  induction fuel generalizing i s with
  | zero => exact h
  | succ fuel ih =>
    refine (burstInto_answered h _ _ _ _).bind fun bs t ht => ?_
    split
    · refine ih ?_ _
      exact ht
    · exact ht

/-- While the transport answers no command gets stuck, and it goes on answering. -/
theorem bodyOf_answered (i : Instr) : (bodyOf i s).Answered := by
  cases i with
  | openSession => exact openBody_answered h
  | closeSession => exact endSession_transportAnswers h
  | wr1 a v => exact devWrite1_answered h _ _ _
  | rd1 a => exact burstThen_answered h _ _ _ _ (f := fun _ t => t) fun _ _ ht => ht
  | brd a n k => exact burstThen_answered h _ _ _ _ (f := fun _ t => t) fun _ _ ht => ht
  | chkid => exact burstThen_answered h _ _ _ _ (f := fun bs => noteChipId (bs.headD 0)) fun _ _ ht => ht
  | ldcal => exact ldcalBody_answered h
  | cfg => exact cfgBody_answered h
  | poll => exact pollLoop_answered (s := s.pollStart) h _ _
  | rdraw => exact burstThen_answered h _ _ _ _ (f := fun _ => loadRaw) fun _ _ ht => ht
  | nop | unpkc | unpkr | cmpt | cmpp | cmph => exact h

/-! ## The host's actions -/

theorem fail_transportAnswers (e : ErrCode) (n : BitVec 16) : (fail e n s).transportAnswers := by
  rw [fail_eq]
  exact h

/-- A command completes: refused, or at the end of its pseudocode. -/
theorem exec_completes (i : Instr) : ∃ t, exec i s = .next t ∧ t.transportAnswers := by
  obtain ⟨-, he⟩ | ⟨-, -, he⟩ := exec_cases i s
  · exact ⟨_, he, fail_transportAnswers h _ _⟩
  · exact ⟨_, he, settle_of_post (bodyOf_answered h i) (fun _ hu => hu) (fun e n _ hu => fail_transportAnswers hu e _)
      fun _ hf => hf.elim⟩

theorem execWord_completes (w : Word) : ∃ t, execWord w s = .next t ∧ t.transportAnswers := by
  cases hd : decode w with
  | error e => exact ⟨_, execWord_of_decode_error hd s, fail_transportAnswers (s := { s with lastCmd := w }) h _ _⟩
  | ok i =>
    rw [execWord_of_decode_ok hd]
    exact exec_completes (s := { s with lastCmd := w }) h i

theorem hostWrite_transportAnswers (n : Nat) (v : Word) : (hostWrite n v s).transportAnswers := by
  obtain hw | ⟨-, hw⟩ | ⟨-, hw⟩ | ⟨-, hw⟩ := hostWrite_cases n v s <;> rw [hw] <;> exact h

theorem hostRead_transportAnswers (n : Nat) (e : Option Word) : (hostRead n e s).transportAnswers := by
  obtain ⟨v, d, hr, -⟩ := hostRead_eq n e s
  rw [hr]
  exact h

theorem hostAct_completes (a : HostAction) : ∃ t, hostAct a s = .next t ∧ t.transportAnswers := by
  cases a with
  | write n v =>
    rw [hostAct]
    split
    · exact execWord_completes h v
    · exact ⟨_, rfl, hostWrite_transportAnswers h n v⟩
  | follow w =>
    rw [hostAct]
    split
    · exact ⟨_, rfl, h⟩
    · exact execWord_completes h w
  | read n e => exact ⟨_, rfl, hostRead_transportAnswers h n e⟩
  | reset => exact ⟨_, rfl, h⟩

end

/-! ## The obligation -/

/-- Settles O13: the step is idle or one host action, and each of those completes. -/
theorem everyStepCompletesWhileTransportAnswers : Obligations.EveryStepCompletesWhileTransportAnswers := by
  intro s h
  have hh : s.hung = false := h.1
  cases hq : s.hostq with
  | nil => exact ⟨s, step_of_idle hh hq, h⟩
  | cons a rest =>
    rw [step_of_action hh hq]
    exact hostAct_completes (s := { s with hostq := rest }) h a

end Sys2Proof.Machine
end

section
/-! SUPPORT. Every step keeps the invariant. Outside an open session only a cleared session and a recorded error have to
be looked at; inside one, a command's pseudocode is transport calls and updates that each keep the invariant, wherever
it ends. -/

namespace Sys2Proof.Machine

/-! ## A cleared session (10_state.md R44) -/

/-- With the session's data cleared, what is left of the invariant is about parameters, device, bus, session and
error. -/
theorem State.Inv.of_sessionClear {s : State} (hclear : s.sessionClear) (hcfg : s.cfg.wf = true)
    (hmem : ∀ d, s.bus.device = some d → d.reg.wf = true) (hbus : s.sess = .closed → s.busHeld = false)
    (hopened : s.sess = .opened → s.err = .clear) (haborted : s.sess = .aborted → s.err ≠ .clear)
    (herr : s.err = .clear → s.errCmd = 0 ∧ s.errStep = 0) : s.Inv := by
  have ⟨hcal, _, _, ht, hp, hh, hid, hwarn, _, _, htimeout, _, hcnt⟩ := hclear
  rw [Bool.eq_false_iff] at hcal ht hp hh hid hwarn htimeout
  exact {
    cfgWf := hcfg, memWf := hmem, closedBus := hbus, openedErr := hopened, abortedErr := haborted, clearErr := herr
    closedClear := fun _ => hclear
    tNeeds := ht.elim, pNeeds := hp.elim, hNeeds := hh.elim, warnNeeds := hwarn.elim, idMatches := hid.elim
    hRange := hh.elim, guardZero := hp.elim, calPacked := hcal.elim
    pollBound := hcnt ▸ Nat.zero_le _
    pollTimedOut := htimeout.elim }

section
variable {s t : State}

/-- Closing the bus leaves the reference device's memory as it is. -/
theorem releaseBus_keepsDevice (s : State) : KeepsDevice s (releaseBus s) := by
  intro h d hd
  unfold releaseBus at hd
  split at hd
  · obtain ⟨d', hd', rfl⟩ := Option.map_eq_some_iff.mp hd
    exact h d' hd'
  · exact h d hd

/-- `releaseBus` touches the transport and `BUS_HELD` alone. -/
theorem releaseBus_frame (s : State) : releaseBus s = { s with bus := (releaseBus s).bus, busHeld := false } := by
  unfold releaseBus
  split
  · rfl
  · next h => rw [← Bool.eq_false_iff.mpr h]

theorem State.Inv.endSession (h : s.Inv) : (endSession s).Inv := by
  have hmem := releaseBus_keepsDevice s h.memWf
  unfold Machine.endSession
  rw [releaseBus_frame]
  exact .of_sessionClear (clearSession_sessionClear s) h.cfgWf hmem (fun _ => rfl) nofun nofun h.clearErr

theorem State.Inv.blockReset (h : s.Inv) : (blockReset s).Inv :=
  .of_sessionClear (blockReset_sessionClear s) h.cfgWf h.memWf (fun _ => rfl) nofun nofun fun _ => ⟨rfl, rfl⟩

theorem State.Inv.startSession (h : s.Inv) : (startSession s).Inv :=
  .of_sessionClear (clearSession_sessionClear s) h.cfgWf h.memWf nofun (fun _ => rfl) nofun fun _ => ⟨rfl, rfl⟩

/-! ## The error procedure (60_exceptions.md R222) -/

/-- An error in an open session aborts it, in a closed one it is recorded if it is the first, and any other changes
nothing. -/
theorem State.Inv.fail (h : s.Inv) {e : ErrCode} (he : e ≠ .clear) (n : BitVec 16) : (fail e n s).Inv := by
  by_cases hs : s.sess = .opened
  · rw [fail_of_opened hs (h.openedErr hs)]
    exact { h with
      closedBus := nofun, openedErr := nofun, abortedErr := fun _ => he, clearErr := fun hc => absurd hc he
      closedClear := nofun }
  · by_cases hc : s.err = .clear
    · rw [fail_eq, if_pos hc, if_pos hc, if_pos hc, if_neg hs]
      exact { h with
        openedErr := fun ho => absurd ho hs, abortedErr := fun _ => he, clearErr := fun hc' => absurd hc' he }
    · rw [fail_of_ended hc hs]
      exact h

/-! ## Inside an open session -/

/-- The session is open and the invariant holds. -/
structure State.OpenInv (s : State) : Prop where
  opened : s.sess = .opened
  inv : s.Inv

theorem State.OpenInv.ne_closed (h : s.OpenInv) : s.sess ≠ .closed := ne_of_eq_of_ne h.opened nofun

/-- However the stretch ends the session is still open and the invariant holds, and what it raises is an error. -/
def Run.KeepsOpen {α : Type} (r : Run α) : Prop :=
  r.Post (fun _ t => t.OpenInv) (fun e _ t => e ≠ .clear ∧ t.OpenInv) State.OpenInv

/-- Where a command's pseudocode ends, after `Fail` or a call that never returns too, the invariant holds. -/
theorem Run.KeepsOpen.settle_inv {r : Run Unit} (hr : r.KeepsOpen) : (settle r).Inv :=
  settle_of_post hr (fun _ h => h.inv) (fun _ _ _ ⟨he, h⟩ => h.inv.fail he _) fun _ h => { h.inv with }

/-! ## Transport calls and bursts (20_memory.md R63 to R66) -/

/-- From `s` to `t` nothing but transport calls and updates of the receive buffer happened. -/
def Traffic (s t : State) : Prop := BurstOnly s t ∧ KeepsDevice s t

theorem BusOnly.traffic (hb : BusOnly s t) (hd : KeepsDevice s t) : Traffic s t := ⟨hb.burstOnly, hd⟩

/-- In an open session the invariant says of the transport only that the device's memory is canonical, and nothing of
the receive buffer. -/
theorem Traffic.openInv (ht : Traffic s t) (h : s.OpenInv) : t.OpenInv := by
  obtain ⟨hb, hd⟩ := ht
  have hmem := hd h.inv.memWf
  have ho := hb.sess.trans h.opened
  rw [hb] at ho ⊢
  exact ⟨ho, { h.inv with memWf := hmem, closedClear := fun hc => nomatch ho.symm.trans hc }⟩

/-- However the stretch begun in `s` ends, it was traffic, and what it raises is an error. -/
def Run.IsTraffic {α : Type} (r : Run α) (s : State) : Prop :=
  r.Post (fun _ t => Traffic s t) (fun e _ t => e ≠ .clear ∧ Traffic s t) (Traffic s)

theorem busOpen_traffic (s : State) : (busOpen s).IsTraffic s :=
  (busOpen_post s).mono (fun _ _ ⟨hb, _, _, hd, _⟩ => hb.traffic hd) (fun _ _ _ hf => hf.elim)
    fun _ ⟨hb, _, _, hd, _⟩ => hb.traffic hd

theorem addrSelect_traffic (s : State) : (addrSelect s).IsTraffic s :=
  (addrSelect_post s).mono (fun _ _ ⟨hb, _, _, hd, _⟩ => hb.traffic hd) (fun _ _ _ hf => hf.elim)
    fun _ ⟨hb, _, _, hd, _⟩ => hb.traffic hd

theorem devWrite1_traffic (step : Nat) (a v : Byte) (s : State) : (devWrite1 step a v s).IsTraffic s :=
  (devWrite1_post step a v s).mono (fun _ _ ⟨hb, _, hd, _⟩ => hb.traffic hd)
    (fun _ _ _ ⟨he, _, hb, hd, _⟩ => ⟨he ▸ nofun, hb.traffic hd⟩) fun _ ⟨hb, _, hd, _⟩ => hb.traffic hd

theorem burstInto_traffic (step : Nat) (a : Byte) (n k : Nat) (s : State) : (burstInto step a n k s).IsTraffic s := by
  refine (burstInto_post step a n k s).mono ?_ ?_ ?_
  · rintro bs - ⟨-, r, u, -, ⟨hb, -, hd⟩, rfl⟩
    exact ⟨hb.burstOnly.putBytes k bs, hd⟩
  · rintro - m - ⟨rfl, u, rfl, ⟨-, c, -, hb, -, hd⟩ | ⟨-, r, -, hb, -, hd⟩⟩
    · exact ⟨nofun, hb.burstOnly.dropBytes k n, hd⟩
    · exact ⟨nofun, hb.burstOnly.dropBytes k n, hd⟩
  · rintro t ⟨-, ⟨hb, -, hd⟩ | ⟨hb, -, hd⟩⟩
    · exact hb.traffic hd
    · exact hb.traffic hd

theorem Run.IsTraffic.keepsOpen {α : Type} {r : Run α} (hr : r.IsTraffic s) (h : s.OpenInv) : r.KeepsOpen :=
  hr.mono (fun _ _ ht => ht.openInv h) (fun _ _ _ ⟨he, ht⟩ => ⟨he, ht.openInv h⟩) fun _ ht => ht.openInv h

/-- Traffic, and then a stretch begun where it is done. -/
theorem Run.IsTraffic.bind_keepsOpen {α β : Type} {r : Run α} {f : α → State → Run β} (hr : r.IsTraffic s)
    (h : s.OpenInv) (hf : ∀ a t, Traffic s t → (f a t).KeepsOpen) : (r.bind f).KeepsOpen :=
  (Run.post_bind r f _ _ _).mpr
    (hr.mono hf (fun _ _ _ ⟨he, ht⟩ => ⟨he, ht.openInv h⟩) fun _ ht => ht.openInv h)

end

/-! ## The updates of a session's data -/

/-- A packed coefficient is a 12-bit value, in either reading (43_unpack.md R163, R164). -/
theorem packedField_range (signed : Bool) (f : BitVec 12) : packedRange signed (packedField signed f) := by
  cases signed with
  | false =>
    have hf := f.isLt
    show (f.setWidth 16).toNat ≤ 4095
    rw [BitVec.toNat_setWidth]
    omega
  | true =>
    have hlo := BitVec.le_toInt f
    have hhi := BitVec.toInt_lt (x := f)
    show -2048 ≤ (f.signExtend 16).toInt ∧ (f.signExtend 16).toInt ≤ 2047
    rw [BitVec.toInt_signExtend_of_le (by decide)]
    omega

section
variable {s : State} (h : s.OpenInv)
include h

theorem State.OpenInv.holdBus : State.OpenInv { s with busHeld := true } :=
  ⟨h.opened, { h.inv with closedBus := h.ne_closed.elim }⟩

/-- The warning is set unless the byte is the expected one (42_sequences.md R135). -/
theorem State.OpenInv.noteChipId (b : Byte) : (noteChipId b s).OpenInv := by
  refine ⟨h.opened, { h.inv with
    closedClear := h.ne_closed.elim, warnNeeds := fun _ => rfl, idMatches := fun _ hw => ?_ }⟩
  obtain ⟨-, hb⟩ := Bool.or_eq_false_iff.mp hw
  exact not_not.mp (of_decide_eq_false hb)

theorem State.OpenInv.loadCal : (loadCal s).OpenInv :=
  ⟨h.opened, { h.inv with
    closedClear := h.ne_closed.elim
    tNeeds := fun ht => (h.inv.tNeeds ht).imp_right fun ⟨hr, _⟩ => ⟨hr, rfl⟩
    pNeeds := fun hp => (h.inv.pNeeds hp).imp_right fun ⟨hr, _⟩ => ⟨hr, rfl⟩
    hNeeds := fun hh => (h.inv.hNeeds hh).imp_right fun ⟨hr, _⟩ => ⟨hr, rfl⟩
    calPacked := fun _ => ⟨packedField_range _ _, packedField_range _ _⟩ }⟩

/-- A new sample leaves no result of the old one valid (10_state.md R25). -/
theorem State.OpenInv.loadRaw : (loadRaw s).OpenInv :=
  ⟨h.opened, { h.inv with
    closedClear := h.ne_closed.elim, tNeeds := nofun, pNeeds := nofun, hNeeds := nofun, hRange := nofun
    guardZero := nofun }⟩

theorem State.OpenInv.storeTemp (hc : s.calValid = true) (hr : s.rawValid = true) (r : TempResult) :
    (storeTemp r s).OpenInv :=
  ⟨h.opened, { h.inv with
    closedClear := h.ne_closed.elim
    tNeeds := fun _ => ⟨rfl, hr, hc⟩, pNeeds := fun _ => ⟨rfl, hr, hc⟩, hNeeds := fun _ => ⟨rfl, hr, hc⟩ }⟩

theorem State.OpenInv.storePress (hneeds : s.tfValid = true ∧ s.rawValid = true ∧ s.calValid = true) {r : PressResult}
    (hguard : r.guard = true → r.p = 0) : (storePress r s).OpenInv :=
  ⟨h.opened, { h.inv with
    closedClear := h.ne_closed.elim, pNeeds := fun _ => hneeds, guardZero := fun _ => hguard }⟩

theorem State.OpenInv.storeHum (hneeds : s.tfValid = true ∧ s.rawValid = true ∧ s.calValid = true) {r : HumResult}
    (hrange : r.h.toNat ≤ 102400) : (storeHum r s).OpenInv :=
  ⟨h.opened, { h.inv with
    closedClear := h.ne_closed.elim, hNeeds := fun _ => hneeds, hRange := fun _ => hrange }⟩

end

/-! ## The loop of `POLL` (42_sequences.md R138) -/

/-- Inside a poll: `i` of `POLL_MAX` reads are made, `fuel` are left, and it has not timed out. -/
structure State.Polling (s : State) (fuel i : Nat) : Prop where
  openInv : s.OpenInv
  count : s.pollCnt.toNat = i
  running : s.pollTimeout = false
  left : i + fuel = s.cfg.pollMax

section
variable {s t : State} {fuel i : Nat}

theorem State.OpenInv.pollStart (h : s.OpenInv) : s.pollStart.Polling s.cfg.pollMax 0 where
  openInv := ⟨h.opened, { h.inv with
    closedClear := h.ne_closed.elim, pollBound := Nat.zero_le _, pollTimedOut := nofun }⟩
  count := rfl
  running := rfl
  left := Nat.zero_add _

theorem Traffic.polling (ht : Traffic s t) (h : s.Polling fuel i) : t.Polling fuel i := by
  have ho := ht.openInv h.openInv
  have hb := ht.1
  rw [hb] at ho ⊢
  exact ⟨ho, h.count, h.running, h.left⟩

/-- No read is left: the poll times out with `POLLCNT` at `POLL_MAX`. -/
theorem State.Polling.timeOut (h : s.Polling 0 i) : State.OpenInv { s with pollTimeout := true } :=
  ⟨h.openInv.opened, { h.openInv.inv with
    closedClear := h.openInv.ne_closed.elim, pollTimedOut := fun _ => h.count.trans h.left }⟩

/-- `POLL_MAX` fits `POLLCNT` (00_scope.md R9). -/
theorem pollMax_le_of_wf {p : Params} (h : p.wf = true) : p.pollMax ≤ 65535 := by
  simp only [Params.wf, Bool.and_eq_true, decide_eq_true_eq] at h
  exact h.2

/-- One more read is counted, without wrapping. -/
theorem State.Polling.countRead (h : s.Polling (fuel + 1) i) :
    State.Polling { s with pollCnt := BitVec.ofNat 16 (i + 1) } fuel (i + 1) := by
  have hmax := pollMax_le_of_wf h.openInv.inv.cfgWf
  have hleft := h.left
  have hcnt : (BitVec.ofNat 16 (i + 1)).toNat = i + 1 := by
    rw [BitVec.toNat_ofNat]
    exact Nat.mod_eq_of_lt (by omega)
  have hbound : (BitVec.ofNat 16 (i + 1)).toNat ≤ s.cfg.pollMax := by omega
  have hleft' : i + 1 + fuel = s.cfg.pollMax := by omega
  exact ⟨⟨h.openInv.opened, { h.openInv.inv with
    closedClear := h.openInv.ne_closed.elim, pollBound := hbound
    pollTimedOut := (Bool.eq_false_iff.mp h.running).elim }⟩, hcnt, h.running, hleft'⟩

theorem State.Polling.sleepFor (h : s.Polling fuel i) (d : Duration) : (sleepFor d s).Polling fuel i :=
  ⟨⟨h.openInv.opened, { h.openInv.inv with }⟩, h.count, h.running, h.left⟩

theorem pollLoop_keepsOpen (h : s.Polling fuel i) : (pollLoop fuel i s).KeepsOpen := by
  induction fuel generalizing i s with
  | zero => exact h.timeOut
  | succ fuel ih =>
    refine (burstInto_traffic _ _ _ _ s).bind_keepsOpen h.openInv fun bs t ht => ?_
    have hread := (ht.polling h).countRead
    split
    · exact ih (hread.sleepFor _)
    · exact hread.openInv

end

/-! ## The pseudocode of the commands -/

/-- `OPEN` begins with a cleared session, and then only makes calls and holds the bus (40_session.md R112). -/
theorem openBody_keepsOpen {s : State} (h : s.Inv) : (openBody s).KeepsOpen := by
  have hstart : (startSession s).OpenInv := ⟨rfl, h.startSession⟩
  refine (busOpen_traffic _).bind_keepsOpen hstart fun r0 t ht => ?_
  cases r0 with
  | false => exact ⟨nofun, ht.openInv hstart⟩
  | true =>
    have hheld := (ht.openInv hstart).holdBus
    refine (addrSelect_traffic _).bind_keepsOpen hheld fun r1 u hu => ?_
    cases r1 with
    | false => exact ⟨nofun, hu.openInv hheld⟩
    | true => exact hu.openInv hheld

section
variable {s : State} (h : s.OpenInv)
include h

/-- A burst into the receive buffer and then an update that keeps the invariant. -/
theorem burstThen_keepsOpen (step : Nat) (a : Byte) (n k : Nat) {f : List Byte → State → State}
    (hf : ∀ bs t, t.OpenInv → (f bs t).OpenInv) :
    ((burstInto step a n k s).bind fun bs t => .ok () (f bs t)).KeepsOpen :=
  (burstInto_traffic step a n k s).bind_keepsOpen h fun bs t ht => hf bs t (ht.openInv h)

theorem ldcalBody_keepsOpen : (ldcalBody s).KeepsOpen :=
  (burstInto_traffic _ _ _ _ s).bind_keepsOpen h fun _ _ ht =>
    burstThen_keepsOpen (ht.openInv h) _ _ _ _ (f := fun _ => loadCal) fun _ _ hu => hu.loadCal

theorem cfgBody_keepsOpen : (cfgBody s).KeepsOpen :=
  (devWrite1_traffic _ _ _ s).bind_keepsOpen h fun _ t ht =>
    (devWrite1_traffic _ _ _ t).bind_keepsOpen (ht.openInv h) fun _ u hu =>
      (devWrite1_traffic _ _ _ u).keepsOpen (hu.openInv (ht.openInv h))

end

/-- What `CMPP` and `CMPH` need is what their results need (60_exceptions.md R219). -/
theorem resultNeeds_of_precondition {s : State} {i : Instr} (hi : i = .cmpp ∨ i = .cmph)
    (hd : dataPrecondition i s = true) : s.tfValid = true ∧ s.rawValid = true ∧ s.calValid = true := by
  obtain ⟨⟨hc, hr⟩, ht⟩ : (s.calValid = true ∧ s.rawValid = true) ∧ s.tfValid = true := by
    obtain rfl | rfl := hi <;> simpa only [dataPrecondition, Bool.and_eq_true] using hd
  exact ⟨ht, hr, hc⟩

/-- Every command but `OPEN` and `CLOSE`, begun in an open session with the data it needs. -/
theorem bodyOf_keepsOpen {i : Instr} {s : State} (hi : i ≠ .openSession ∧ i ≠ .closeSession) (h : s.OpenInv)
    (hd : dataPrecondition i s = true) : (bodyOf i s).KeepsOpen := by
  cases i with
  | nop => exact h
  | openSession => exact absurd rfl hi.1
  | closeSession => exact absurd rfl hi.2
  | wr1 a v => exact (devWrite1_traffic _ _ _ s).keepsOpen h
  | rd1 a => exact burstThen_keepsOpen h _ _ _ _ (f := fun _ t => t) fun _ _ ht => ht
  | brd a n k => exact burstThen_keepsOpen h _ _ _ _ (f := fun _ t => t) fun _ _ ht => ht
  | chkid => exact burstThen_keepsOpen h _ _ _ _ (f := fun bs => noteChipId (bs.headD 0)) fun _ _ ht => ht.noteChipId _
  | ldcal => exact ldcalBody_keepsOpen h
  | cfg => exact cfgBody_keepsOpen h
  | poll => exact pollLoop_keepsOpen h.pollStart
  | rdraw => exact burstThen_keepsOpen h _ _ _ _ (f := fun _ => loadRaw) fun _ _ ht => ht.loadRaw
  | unpkc => exact h.loadCal
  | unpkr => exact h.loadRaw
  | cmpt =>
    obtain ⟨hc, hr⟩ := (Bool.and_eq_true _ _).mp hd
    exact h.storeTemp hc hr _
  | cmpp =>
    obtain ⟨-, hguard, -⟩ := pressureGuardIsTakenOnZeroDenominator s.adcP s.tFine s.cal
    exact h.storePress (resultNeeds_of_precondition (.inl rfl) hd) hguard
  | cmph => exact h.storeHum (resultNeeds_of_precondition (.inr rfl) hd) (compH_range _ _ _)

/-! ## The host's actions -/

section
variable {s t : State} (h : s.Inv)
include h

/-- An accepted command, at the end of its pseudocode. -/
theorem State.Inv.settle_bodyOf {i : Instr} (ha : sessionAllows i s.sess = true) (hd : dataPrecondition i s = true) :
    (settle (bodyOf i s)).Inv := by
  cases i with
  | nop => exact h
  | openSession => exact (openBody_keepsOpen h).settle_inv
  | closeSession => exact h.endSession
  | _ => exact Run.KeepsOpen.settle_inv (bodyOf_keepsOpen ⟨nofun, nofun⟩ ⟨of_decide_eq_true ha, h⟩ hd)

theorem State.Inv.exec {i : Instr} (he : exec i s = .next t) : t.Inv := by
  obtain ⟨-, hx⟩ | ⟨ha, hd, hx⟩ := exec_cases i s
  · obtain rfl := Host.Outcome.next.inj (hx.symm.trans he)
    exact h.fail (e := .orderViolation) nofun _
  · obtain rfl := Host.Outcome.next.inj (hx.symm.trans he)
    exact h.settle_bodyOf ha hd

/-- `T_FINE` may be valid with no sample: it needs nothing (10_state.md R29, R39). -/
theorem State.Inv.hostWrite (n : Nat) (v : Word) : (hostWrite n v s).Inv := by
  obtain hw | ⟨-, hw⟩ | ⟨ho, hw⟩ | ⟨ho, hw⟩ := hostWrite_cases n v s
  · rw [hw]
    exact h
  · rw [hw]
    exact { h with }
  · have hne := State.OpenInv.ne_closed ⟨ho, h⟩
    rw [hw]
    exact { h with
      closedClear := hne.elim
      tNeeds := fun ht => (h.tNeeds ht).imp_left fun _ => rfl
      pNeeds := fun hp => (h.pNeeds hp).imp_left fun _ => rfl
      hNeeds := fun hh => (h.hNeeds hh).imp_left fun _ => rfl }
  · have hne := State.OpenInv.ne_closed ⟨ho, h⟩
    rw [hw]
    exact { h with closedClear := hne.elim }

theorem State.Inv.hostRead (n : Nat) (e : Option Word) : (hostRead n e s).Inv := by
  obtain ⟨v, d, hr, -⟩ := hostRead_eq n e s
  rw [hr]
  exact { h with }

end

/-! ## The obligation -/

/-- Settles O16: each form of a step keeps the invariant, which reads neither the host's pending actions nor
`LASTCMD`. -/
theorem stepKeepsTheInvariant : Obligations.StepKeepsTheInvariant := by
  intro s t h hstep
  have hq (rest : List HostAction) : State.Inv { s with hostq := rest } := { h with }
  have hword (rest : List HostAction) (w : Word) : State.Inv { s with hostq := rest, lastCmd := w } := { h with }
  obtain ⟨-, ⟨-, rfl⟩ | ⟨w, rest, -, ⟨e, -, rfl⟩ | ⟨i, -, he⟩⟩ | ⟨w, rest, -, -, rfl⟩ | ⟨n, v, rest, -, -, rfl⟩ |
    ⟨n, e, rest, -, rfl⟩ | ⟨rest, -, rfl⟩⟩ := step_cases hstep
  · exact h
  · exact (hword rest w).fail (e := .illegalCommand) nofun _
  · exact (hword rest w).exec he
  · exact hq rest
  · exact (hq rest).hostWrite n v
  · exact (hq rest).hostRead n e
  · exact (hq rest).blockReset

end Sys2Proof.Machine
end
